-- ==== Sys2Proof/Word.lean ====
section
/-!
DEFINITION. The word type: balanced-ternary numbers of a fixed number of trits (00_scope.md R3, R5, R6) and the one-trit
type. A number of `n` trits is the integer it denotes together with the proof that it lies in the range of `n` trits, so a
value outside the range cannot be built. `bt n` is the wrapping of R5; it is the only wrapping of the whole model.
-/

namespace Sys2Proof

/-- A balanced-ternary digit, -1, 0 or +1 (R3). -/
inductive Trit where
  | neg
  | zero
  | pos
deriving DecidableEq, Repr

/-- `pow3 n` is the number of values of `n` trits, 3 to the power `n` (R3). -/
def pow3 : Nat → Int
  | 0 => 1
  | n + 1 => 3 * pow3 n

/-- `half n` is the largest value of `n` trits, (3^n - 1)/2 (R3): all trits +1. -/
def half : Nat → Int
  | 0 => 0
  | n + 1 => 3 * half n + 1

/-- There are `2 * half n + 1` values of `n` trits. -/
theorem pow3_eq_half (n : Nat) : pow3 n = 2 * half n + 1 := by
  induction n with
  | zero => rfl
  | succ n ih => simp only [pow3, half, ih]; omega

theorem half_nonneg (n : Nat) : 0 ≤ half n := by
  induction n with
  | zero => exact Int.le_refl 0
  | succ n ih => simp only [half]; omega

theorem pow3_pos (n : Nat) : 0 < pow3 n := by
  have := half_nonneg n
  rw [pow3_eq_half]; omega

/-- R5: `bt n v` is the value of the low `n` trits of `v`, the integer of the range of `n` trits that is congruent to `v`
modulo 3^n. -/
def bt (n : Nat) (v : Int) : Int :=
  (v + half n) % pow3 n - half n

theorem neg_half_le_bt (n : Nat) (v : Int) : -half n ≤ bt n v := by
  have := Int.emod_nonneg (v + half n) (ne_of_gt (pow3_pos n))
  unfold bt; omega

theorem bt_le_half (n : Nat) (v : Int) : bt n v ≤ half n := by
  have h := Int.emod_lt_of_pos (v + half n) (pow3_pos n)
  rw [pow3_eq_half] at h
  unfold bt; rw [pow3_eq_half]; omega

/-- A value of `n` trits (R3): an integer of the interval [-(3^n - 1)/2, +(3^n - 1)/2]. -/
structure Bt (n : Nat) where
  /-- the integer the trits denote -/
  val : Int
  lo : -half n ≤ val
  hi : val ≤ half n
deriving DecidableEq, Repr

/-- The `n`-trit value of the low `n` trits of an integer (R5). -/
def Bt.ofInt (n : Nat) (v : Int) : Bt n :=
  ⟨bt n v, neg_half_le_bt n v, bt_le_half n v⟩

/-- A machine word: 18 trits, three hexads (R3, R20). -/
abbrev Word := Bt 18

/-- A hexad: 6 trits, the smallest addressable unit (R3). -/
abbrev Hexad := Bt 6

/-- A memory address: 12 trits (R60). -/
abbrev Addr := Bt 12

/-- A 9-trit immediate, and an address of the I/O space (R60, R92). -/
abbrev Nonad := Bt 9

end Sys2Proof
end

