-- ==== Sys2Proof/Syntax.lean ====
section
/-!
DEFINITION. The instructions: one constructor of `Instr` for each of the 95 rows of spec/opcode_table.json, in the table's
order. Every operand has the type of exactly the values its field admits (R92, R103, R104), so an instruction with an operand
out of range cannot be built; WellFormed.lean holds the checks that make such operands from raw integers.
-/

namespace Sys2Proof

/-- A base-27 digit (R4), written as the spec writes it, `0` as `zero`. The user registers are named by these digits (R20):
`r0` is `.zero`, `rA` is `.A`, `rz` is `.z`. -/
inductive Digit where
  | z | y | x | w | v | u | t | s | r | q | p | o | n
  | zero
  | A | B | C | D | E | F | G | H | I | J | K | L | M
deriving DecidableEq, Repr

/-- A user register, named by its digit (R20, R21). -/
abbrev Reg := Digit

/-- The eight flags with a letter (R30, R248). -/
inductive Flag where
  | c | s | d | a | b | t | i | p
deriving DecidableEq, Repr

/-- The nine system registers (R24, R304). `CR0` is the instruction pointer (R29). -/
inductive SysReg where
  | cr0 | cr1 | cr2 | cr3 | cr4
  | dr1 | dr2 | dr3 | dr4
deriving DecidableEq, Repr

/-- The instructions. Register operands stand in the order of the opcode table's fields `a`, `b`, `c`; `f` is a flag, `k` a
system register, `imm` the immediate, address, displacement, count or call number. `ldx`, `stx` and `und` carry the fifteen
trits that are not examined (R107, R108). -/
inductive Instr where
  | nop
  | brk
  | ret
  | srt
  | brr (a : Reg)
  | caa (a : Reg)
  | tbX (a b c : Reg) (f : Flag)
  | szX (f : Flag)
  | spX (f : Flag)
  | snX (f : Flag)
  | zfX (f : Flag)
  | pfX (f : Flag)
  | nfX (f : Flag)
  | lsr (k : SysReg) (a : Reg)
  | ssr (a : Reg) (k : SysReg)
  | psh (a : Reg)
  | pop (a : Reg)
  | add (a b c : Reg)
  | adc (a b c : Reg)
  | sub (a b c : Reg)
  | sbc (a b c : Reg)
  | mul (a b c : Reg)
  | div (a b c : Reg)
  | cmp (a b : Reg)
  | min (a b c : Reg)
  | max (a b c : Reg)
  | teq (a b c : Reg)
  | tem (a b c : Reg)
  | sti (a : Reg)
  | pti (a : Reg)
  | nti (a : Reg)
  | bin (a b : Reg)
  | tri (a b : Reg)
  | fdr (a b : Reg)
  | rdr (a b : Reg)
  | lda (a b : Reg)
  | lal (a b : Reg)
  | lam (a b : Reg)
  | lah (a b : Reg)
  | sta (a b : Reg)
  | sal (a b : Reg)
  | sam (a b : Reg)
  | sah (a b : Reg)
  | mov (a b : Reg)
  | xch (a b : Reg)
  | srz (a : Reg)
  | srp (a : Reg)
  | srn (a : Reg)
  | adi (a b : Reg) (imm : Hexad)
  | sbi (a b : Reg) (imm : Hexad)
  | mli (a b : Reg) (imm : Hexad)
  | dvi (a b : Reg) (imm : Hexad)
  | cmi (a : Reg) (imm : Hexad)
  | shl (a : Reg) (imm : Hexad)
  | shr (a : Reg) (imm : Hexad)
  | rol (a : Reg) (imm : Hexad)
  | ror (a : Reg) (imm : Hexad)
  | rcl (a : Reg) (imm : Hexad)
  | rcr (a : Reg) (imm : Hexad)
  | ldi (a : Reg) (imm : Hexad)
  | lil (a : Reg) (imm : Hexad)
  | lim (a : Reg) (imm : Hexad)
  | lih (a : Reg) (imm : Hexad)
  | ldn (a : Reg) (imm : Hexad)
  | stn (a : Reg) (imm : Hexad)
  | bri (a : Reg) (imm : Hexad)
  | brs (imm : Hexad)
  | sys (imm : Hexad)
  | pad (a : Reg) (imm : Nonad)
  | psb (a : Reg) (imm : Nonad)
  | pmu (a : Reg) (imm : Nonad)
  | pdv (a : Reg) (imm : Nonad)
  | int (a : Reg) (imm : Nonad)
  | inb (a : Reg) (imm : Nonad)
  | out (a : Reg) (imm : Nonad)
  | oub (a : Reg) (imm : Nonad)
  | ldr (a : Reg) (imm : Addr)
  | ldl (a : Reg) (imm : Addr)
  | ldm (a : Reg) (imm : Addr)
  | ldh (a : Reg) (imm : Addr)
  | str (a : Reg) (imm : Addr)
  | stl (a : Reg) (imm : Addr)
  | stm (a : Reg) (imm : Addr)
  | sth (a : Reg) (imm : Addr)
  | lad (imm : Addr)
  | bra (imm : Addr)
  | brl (imm : Addr)
  | cal (imm : Addr)
  | car (imm : Addr)
  | bzX (f : Flag) (imm : Addr)
  | bpX (f : Flag) (imm : Addr)
  | bnX (f : Flag) (imm : Addr)
  | ldx (rest : Bt 15)
  | stx (rest : Bt 15)
  | und (rest : Bt 15)
deriving DecidableEq, Repr

end Sys2Proof
end

