-- ==== Sys2Proof/Config.lean ====
section
/-!
DEFINITION. What the spec leaves open. `Params` holds the named parameters of 00_scope.md section 4 that the spec leaves
open, each with the spec's default; the state carries one `Params` value that no step changes, so a statement about
every state is a statement about every setting. The opaque constants are the free values: nothing can be proved of them.
-/

namespace Sys2Proof

/-- `DIVMOD` (R144, D5): how a quotient is rounded. -/
inductive DivMod where
  /-- the spec's default: toward zero, the remainder has the dividend's sign -/
  | truncate
  /-- any rounding with `N = q*d + m` and `|m| < |d|`: which of the two such quotients is taken is the free value
  `Config.divRoundAway` -/
  | lawful
deriving DecidableEq, Repr

/-- `POP_ORDER` (R229, D26): when `pop` and `ret` move the stack pointer. -/
inductive PopOrder where
  /-- the spec's default: `rs` is incremented, then the word is read -/
  | before
  /-- the source's literal effect line: the word is read, then `rs` is incremented -/
  | after
deriving DecidableEq, Repr

/-- `EXC_SAVED_IP` (R334, D14): what an exception raised while an instruction executes saves in `CR3`. -/
inductive SavedIp where
  /-- the spec's default: the already advanced IP, the address of the following instruction -/
  | advanced
  /-- the faulting instruction's own address -/
  | faulting
deriving DecidableEq, Repr

/-- `BIN_NEGATIVE` (R281, D20): what `to_binary` makes of a negative value. -/
inductive BinNegative where
  /-- the spec's default: the low 18 bits of the two's-complement numeral -/
  | twosComplement
  /-- any binary-coded word: the free value `Config.binNegative` -/
  | anyBits
deriving DecidableEq, Repr

/-- `ENCODING` (R91, D1): the map from words to instructions, as plain data. -/
inductive Encoding where
  /-- the spec's own reference value, SPEC-ENC-1 (R94 to R108) -/
  | specEnc1
  /-- any other map: the words that spell an instruction, each with its instruction. The first row of a word counts, and a word
  of no row is undefined (R106). There are finitely many words, so every map is such a list. -/
  | table (rows : List (Word × Instr))
deriving DecidableEq, Repr

/-- One alternative of `INVALID_FLAG` (R336, D18, assumption log 22): an instruction, or every instruction, and values of trits
of `CR1` before the instruction and of those its effect would leave. The condition raises `#IF` when all of them are met. A list
of such alternatives expresses every condition on the instruction and on `CR1` before and after it. -/
structure FlagCondition where
  /-- the instruction, or `none` for every instruction -/
  instr : Option Instr
  /-- positions of `CR1` and their values before the instruction -/
  before : List (Nat × Trit)
  /-- positions of `CR1` and the values the instruction's effect would leave there -/
  after : List (Nat × Trit)
deriving DecidableEq, Repr

/-- The parameters of 00_scope.md section 4. They are fixed for a machine: no step writes them. -/
structure Params where
  encoding : Encoding
  /-- `INVALID_FLAG`: `#IF` is raised when one alternative is met; the spec's default, never, is the empty list -/
  invalidFlag : List FlagCondition
  divMod : DivMod
  popOrder : PopOrder
  /-- `CAA_RELATIVE` (R258, D30): whether `caa` adds the register to IP -/
  caaRelative : Bool
  /-- `LDN_RP_TWICE` (R206, D8): whether A = +1 adds `rp` a second time in `ldn` and `stn` -/
  ldnRpTwice : Bool
  excSavedIp : SavedIp
  binNegative : BinNegative
deriving DecidableEq, Repr

/-- The defaults the spec takes (00_scope.md section 4). -/
def Params.default : Params where
  encoding := .specEnc1
  invalidFlag := []
  divMod := .truncate
  popOrder := .before
  caaRelative := false
  ldnRpTwice := false
  excSavedIp := .advanced
  binNegative := .twosComplement

/-- What kind of transfer an I/O instruction asks for (R291). -/
inductive IoKind where
  | ternary
  | binary
deriving DecidableEq, Repr

/-- One entry of the I/O event log (R291): the address, the kind, the value of the Binary flag, and the word that was
answered or sent, unconverted. -/
inductive IoEvent where
  | read (addr : Nonad) (kind : IoKind) (b : Trit) (answer : Word)
  | write (addr : Nonad) (kind : IoKind) (v : Word) (b : Trit)
deriving DecidableEq, Repr

/-- FREE VALUE (R141, U3): the Carry flag after a multiply, as an integer whose low trit is taken. -/
opaque Config.mulCarry : Nat → Int

/-- FREE VALUE (R23, R140, U5): whether the high word is the write to `ro` that survives when a multiply's destination is
`ro` itself. -/
opaque Config.mulHighSurvives : Nat → Bool

/-- FREE VALUE (R163, U6): the register after a shift or rotate by a negative count, as an integer whose low 18 trits are
taken. -/
opaque Config.negativeCountResult : Nat → Int

/-- FREE VALUE (R163, U6): the Carry flag after `shl`, `shr`, `rcl` or `rcr` by a negative count, as an integer whose low
trit is taken. -/
opaque Config.negativeCountCarry : Nat → Int

/-- FREE VALUE (R282, U10): the result of `tri` on a word with a trit of -1, as an integer whose low 18 trits are taken. -/
opaque Config.triUnspecified : Nat → Int

/-- FREE VALUE (R144, U20), read only under `DivMod.lawful`: for a dividend and a divisor that does not divide it, whether
the quotient further from zero is taken. -/
opaque Config.divRoundAway : Int → Int → Bool

/-- FREE VALUE (R281, U9), read only under `BinNegative.anyBits`: the number whose low 18 bits a negative value becomes. -/
opaque Config.binNegative : Int → Int

/-- FREE VALUE (R291, U19): the answer of the I/O space to a read when the environment has lined up none, as an integer whose
low 18 trits are taken. It may depend on the draw's number, on every I/O event before it, and on the request. -/
opaque Config.ioOracle : Nat → List IoEvent → Nonad → IoKind → Trit → Int

end Sys2Proof
end

