-- ==== Sys2Proof/Machine/Trits.lean ====
section
/-!
DEFINITION. Trits, slices and hexads of a balanced-ternary number (00_scope.md R3, R7, R8), and building a number from its
trits. Everything is computed from the integer the trits denote, as the spec's pseudocode does.
-/

namespace Sys2Proof

/-- The integer a trit denotes. -/
def Trit.toInt : Trit → Int
  | .neg => -1
  | .zero => 0
  | .pos => 1

/-- The low trit of an integer: `bt_1` (R5). -/
def Trit.ofInt (v : Int) : Trit :=
  if v % 3 = 0 then .zero else if v % 3 = 1 then .pos else .neg

/-- `sign(v)` of R7. -/
def signTrit (v : Int) : Trit :=
  if v = 0 then .zero else if 0 < v then .pos else .neg

/-- The integer whose trits are those of `v` from position `k` upward: `v` without its low `k` trits. Dropping trits of a
balanced number rounds to nearest (R165), which is the floor of `(v + (3^k - 1)/2) / 3^k`. -/
def shiftOut (v : Int) (k : Nat) : Int :=
  (v + half k) / pow3 k

/-- `trit(v, i)` of R7, for an integer. -/
def tritAt (v : Int) (i : Nat) : Trit :=
  Trit.ofInt (shiftOut v i)

/-- `v[hi:lo]` of R7: the `n` trits of `v` from position `lo` upward, as a number of `n` trits. -/
def slice (v : Int) (lo n : Nat) : Bt n :=
  Bt.ofInt n (shiftOut v lo)

/-- `trit(v, i)` of R7. -/
def Bt.trit {n : Nat} (w : Bt n) (i : Nat) : Trit :=
  tritAt w.val i

/-- The integer whose trit `i` is `f i` for `i < n`: the sum of R3. -/
def tritSum : (n : Nat) → (Nat → Trit) → Int
  | 0, _ => 0
  | n + 1, f => tritSum n f + (f n).toInt * pow3 n

/-- The number of `n` trits whose trit `i` is `f i` (R3). -/
def ofTrits (n : Nat) (f : Nat → Trit) : Bt n :=
  Bt.ofInt n (tritSum n f)

/-- The three hexads of a word (R61). -/
inductive HexPart where
  | low
  | mid
  | high
deriving DecidableEq, Repr

/-- The position of the lowest trit of a hexad in a word (R7, R61). -/
def HexPart.pos : HexPart → Nat
  | .low => 0
  | .mid => 6
  | .high => 12

/-- `lo6`, `mid6` and `hi6` of R7. -/
def Bt.hexad (w : Word) (p : HexPart) : Hexad :=
  slice w.val p.pos 6

/-- The word with the given low, middle and high hexads: `lo6 + 729*mid6 + 531441*hi6` (R7). -/
def ofHexads (lo mid hi : Hexad) : Word :=
  Bt.ofInt 18 (lo.val + 729 * mid.val + 531441 * hi.val)

/-- `sethex(v, p, h)` of 42_memory_ops.md: the word `v` with one hexad replaced and the other twelve trits unchanged. -/
def Bt.setHexad (w : Word) (p : HexPart) (h : Hexad) : Word :=
  match p with
  | .low => ofHexads h (w.hexad .mid) (w.hexad .high)
  | .mid => ofHexads (w.hexad .low) h (w.hexad .high)
  | .high => ofHexads (w.hexad .low) (w.hexad .mid) h

/-- `align(a)` of R8 and R240: the 12-trit address `bt_12(a)` with its lowest trit replaced by -1. -/
def align (a : Int) : Addr :=
  Bt.ofInt 12 (bt 12 a - (tritAt (bt 12 a) 0).toInt - 1)

/-- An integer as the word a register receives: `bt_18` (R5). -/
def toWord (v : Int) : Word :=
  Bt.ofInt 18 v

end Sys2Proof
end

