-- ==== Sys2Proof/Machine/Digits.lean ====
section
/-!
DEFINITION. The numbers behind the names in an instruction word: the base-27 digits (00_scope.md R4), which are the register
numbers (R20), the flag selectors (R103) and the system register selectors (R104); and the checks that read them back from a
raw integer, answering `none` for an integer that names nothing.
-/

namespace Sys2Proof

/-- The value of a base-27 digit (R4), which is the number of the register it names (R20). -/
def Digit.val : Digit → Int
  | .z => -13 | .y => -12 | .x => -11 | .w => -10 | .v => -9 | .u => -8 | .t => -7
  | .s => -6 | .r => -5 | .q => -4 | .p => -3 | .o => -2 | .n => -1
  | .zero => 0
  | .A => 1 | .B => 2 | .C => 3 | .D => 4 | .E => 5 | .F => 6 | .G => 7
  | .H => 8 | .I => 9 | .J => 10 | .K => 11 | .L => 12 | .M => 13

/-- All base-27 digits. -/
def Digit.all : List Digit :=
  [.z, .y, .x, .w, .v, .u, .t, .s, .r, .q, .p, .o, .n, .zero,
   .A, .B, .C, .D, .E, .F, .G, .H, .I, .J, .K, .L, .M]

/-- A raw integer as a digit or register number, refused outside -13..+13 (R4, R20). -/
def Digit.check (v : Int) : Option Digit :=
  Digit.all.find? (fun d => d.val = v)

/-- The selector of a flag, which is its trit position in `CR1` (R30, R103). -/
def Flag.sel : Flag → Int
  | .c => 0 | .s => 1 | .d => 2 | .a => 5 | .b => 6 | .t => 7 | .i => 8 | .p => 9

/-- A raw integer as a flag selector; any value that is no position of a lettered flag is refused (R103). -/
def Flag.check (v : Int) : Option Flag :=
  [Flag.c, .s, .d, .a, .b, .t, .i, .p].find? (fun f => f.sel = v)

/-- The selector of a system register (R104). -/
def SysReg.sel : SysReg → Int
  | .cr0 => 0 | .cr1 => 1 | .cr2 => 2 | .cr3 => 3 | .cr4 => 4
  | .dr1 => -1 | .dr2 => -2 | .dr3 => -3 | .dr4 => -4

/-- A raw integer as a system register selector; any value but -4..+4 is refused (R104). -/
def SysReg.check (v : Int) : Option SysReg :=
  [SysReg.cr0, .cr1, .cr2, .cr3, .cr4, .dr1, .dr2, .dr3, .dr4].find? (fun k => k.sel = v)

end Sys2Proof
end

