-- ==== Sys2Proof/WellFormed.lean ====
section
/-!
DEFINITION. The checks an operand passes before it can stand in an instruction: the ranges of R92 here, the digits, flag
selectors (R103) and system register selectors (R104) in Machine/Digits.lean. Each check takes a raw integer and answers
`none` for an ill-formed one. The operand types of `Instr` hold exactly what passes, and `Instr.WellFormed` states the ranges
again for the fields of a whole instruction.
-/

namespace Sys2Proof

/-- A raw integer as a value of `n` trits, refused outside the range (R3, R92). -/
def Bt.check (n : Nat) (v : Int) : Option (Bt n) :=
  if h : -half n ≤ v ∧ v ≤ half n then some ⟨v, h.1, h.2⟩ else none

/-- The range check of one immediate field (R92). -/
abbrev Bt.InRange {n : Nat} (x : Bt n) : Prop :=
  Bt.check n x.val = some x

/-- The operands of an instruction lie in the ranges R92, R103 and R104 give them. Every term of `Instr` meets it
(`Laws.Fits`), because the operand types admit nothing else. -/
abbrev Instr.WellFormed (i : Instr) : Prop :=
  match i with
  | .nop | .brk | .ret | .srt => True
  | .brr a | .caa a | .psh a | .pop a | .sti a | .pti a | .nti a | .srz a | .srp a | .srn a =>
    Digit.check a.val = some a
  | .tbX a b c f =>
    Digit.check a.val = some a ∧ Digit.check b.val = some b ∧ Digit.check c.val = some c ∧ Flag.check f.sel = some f
  | .szX f | .spX f | .snX f | .zfX f | .pfX f | .nfX f => Flag.check f.sel = some f
  | .lsr k a | .ssr a k => SysReg.check k.sel = some k ∧ Digit.check a.val = some a
  | .add a b c | .adc a b c | .sub a b c | .sbc a b c | .mul a b c | .div a b c | .min a b c | .max a b c | .teq a b c
  | .tem a b c => Digit.check a.val = some a ∧ Digit.check b.val = some b ∧ Digit.check c.val = some c
  | .cmp a b | .bin a b | .tri a b | .fdr a b | .rdr a b | .lda a b | .lal a b | .lam a b | .lah a b | .sta a b
  | .sal a b | .sam a b | .sah a b | .mov a b | .xch a b => Digit.check a.val = some a ∧ Digit.check b.val = some b
  | .adi a b imm | .sbi a b imm | .mli a b imm | .dvi a b imm =>
    Digit.check a.val = some a ∧ Digit.check b.val = some b ∧ imm.InRange
  | .cmi a imm | .shl a imm | .shr a imm | .rol a imm | .ror a imm | .rcl a imm | .rcr a imm | .ldi a imm | .lil a imm
  | .lim a imm | .lih a imm | .ldn a imm | .stn a imm | .bri a imm => Digit.check a.val = some a ∧ imm.InRange
  | .brs imm | .sys imm => imm.InRange
  | .pad a imm | .psb a imm | .pmu a imm | .pdv a imm | .int a imm | .inb a imm | .out a imm | .oub a imm =>
    Digit.check a.val = some a ∧ imm.InRange
  | .ldr a imm | .ldl a imm | .ldm a imm | .ldh a imm | .str a imm | .stl a imm | .stm a imm | .sth a imm =>
    Digit.check a.val = some a ∧ imm.InRange
  | .lad imm | .bra imm | .brl imm | .cal imm | .car imm => imm.InRange
  | .bzX f imm | .bpX f imm | .bnX f imm => Flag.check f.sel = some f ∧ imm.InRange
  | .ldx rest | .stx rest | .und rest => rest.InRange

end Sys2Proof
end

