-- ==== Sys2Proof/Decode.lean ====
section
/-!
DEFINITION. The encoding SPEC-ENC-1 (30_encoding.md R94 to R108): the decoder, total on every word and refusing by name, and
after it the encoder, written from the same tables.
-/

namespace Sys2Proof

/-- Why a word spells no instruction (R106). Every one of them makes the step raise `#OP`. -/
inductive DecodeError where
  /-- the digit `d5` is `u`, `v` or `w`, which R96 leaves unassigned -/
  | unassignedMajor
  /-- the digit `d4` is none of its format's table (R97 to R101, "other") -/
  | unassignedMinor
  /-- a field the tables show as 0 is not 0 (R105) -/
  | nonzeroField
  /-- a flag field holds a digit that selects no flag (R103) -/
  | noSuchFlag
  /-- a system register field holds a digit that selects none (R104) -/
  | noSuchSysReg
  /-- no row of an `ENCODING` other than SPEC-ENC-1 has the word (R91, R106) -/
  | notInEncoding
deriving DecidableEq, Repr

/-- What the decoder answers. -/
abbrev Decoded := Except DecodeError Instr

/-- The digit a number of three trits stands for (R4): the low three trits of `v`. -/
def Digit.ofInt (v : Int) : Digit :=
  (Digit.check (bt 3 v)).getD .zero

/-- Digit `dk` of a word: its trits `3k+2..3k` (R94). -/
def Bt.digit (w : Word) (k : Nat) : Digit :=
  Digit.ofInt (shiftOut w.val (3 * k))

/-- The hexad immediate `i1 i0` of format I (R95). -/
def Bt.imm6 (w : Word) : Hexad :=
  Bt.ofInt 6 w.val

/-- The 9-trit immediate `j2 j1 j0` of format W (R95). -/
def Bt.imm9 (w : Word) : Nonad :=
  Bt.ofInt 9 w.val

/-- The 12-trit immediate `k3 k2 k1 k0` of format A (R95). -/
def Bt.imm12 (w : Word) : Addr :=
  Bt.ofInt 12 w.val

/-- The fifteen trits below `d5`, not examined in `ldx`, `stx` and `und` (R107, R108). -/
def Bt.rest15 (w : Word) : Bt 15 :=
  Bt.ofInt 15 w.val

/-- `i`, if the digits of the fields the tables show as `0` are all 0 (R105). -/
def unusedZero (ds : List Digit) (i : Instr) : Decoded :=
  if ds.all (fun d => decide (d = .zero)) then .ok i else .error .nonzeroField

/-- The instruction made with the flag a digit selects (R103). -/
def withFlag (d : Digit) (mk : Flag → Decoded) : Decoded :=
  match Flag.check d.val with
  | some f => mk f
  | none => .error .noSuchFlag

/-- The instruction made with the system register a digit selects (R104). -/
def withSysReg (d : Digit) (mk : SysReg → Decoded) : Decoded :=
  match SysReg.check d.val with
  | some k => mk k
  | none => .error .noSuchSysReg

/-- Format S, `d5 = 0` (R97). -/
def decodeS (w : Word) : Decoded :=
  let d3 := w.digit 3
  let d2 := w.digit 2
  let d1 := w.digit 1
  let d0 := w.digit 0
  match w.digit 4 with
  | .zero => unusedZero [d3, d2, d1, d0] .nop
  | .A => unusedZero [d3, d2, d1, d0] .brk
  | .B => unusedZero [d3, d2, d1, d0] .ret
  | .C => unusedZero [d3, d2, d1, d0] .srt
  | .D => unusedZero [d2, d1, d0] (.brr d3)
  | .E => unusedZero [d2, d1, d0] (.caa d3)
  | .F => withFlag d0 (fun f => .ok (.tbX d3 d2 d1 f))
  | .G => withFlag d0 (fun f => unusedZero [d3, d2, d1] (.szX f))
  | .H => withFlag d0 (fun f => unusedZero [d3, d2, d1] (.spX f))
  | .I => withFlag d0 (fun f => unusedZero [d3, d2, d1] (.snX f))
  | .J => withFlag d0 (fun f => unusedZero [d3, d2, d1] (.zfX f))
  | .K => withFlag d0 (fun f => unusedZero [d3, d2, d1] (.pfX f))
  | .L => withFlag d0 (fun f => unusedZero [d3, d2, d1] (.nfX f))
  | .M => withSysReg d3 (fun k => unusedZero [d1, d0] (.lsr k d2))
  | .n => withSysReg d2 (fun k => unusedZero [d1, d0] (.ssr d3 k))
  | .o => unusedZero [d2, d1, d0] (.psh d3)
  | .p => unusedZero [d2, d1, d0] (.pop d3)
  | .q | .r | .s | .t | .u | .v | .w | .x | .y | .z => .error .unassignedMinor

/-- Format R, `d5 = A` (R98). -/
def decodeR (w : Word) : Decoded :=
  let d3 := w.digit 3
  let d2 := w.digit 2
  let d1 := w.digit 1
  let d0 := w.digit 0
  match w.digit 4 with
  | .A => unusedZero [d0] (.add d3 d2 d1)
  | .B => unusedZero [d0] (.adc d3 d2 d1)
  | .C => unusedZero [d0] (.sub d3 d2 d1)
  | .D => unusedZero [d0] (.sbc d3 d2 d1)
  | .E => unusedZero [d0] (.mul d3 d2 d1)
  | .F => unusedZero [d0] (.div d3 d2 d1)
  | .G => unusedZero [d1, d0] (.cmp d3 d2)
  | .H => unusedZero [d0] (.min d3 d2 d1)
  | .I => unusedZero [d0] (.max d3 d2 d1)
  | .J => unusedZero [d0] (.teq d3 d2 d1)
  | .K => unusedZero [d0] (.tem d3 d2 d1)
  | .L => unusedZero [d2, d1, d0] (.sti d3)
  | .M => unusedZero [d2, d1, d0] (.pti d3)
  | .n => unusedZero [d2, d1, d0] (.nti d3)
  | .o => unusedZero [d1, d0] (.bin d3 d2)
  | .p => unusedZero [d1, d0] (.tri d3 d2)
  | .q => unusedZero [d1, d0] (.fdr d3 d2)
  | .r => unusedZero [d1, d0] (.rdr d3 d2)
  | .zero | .s | .t | .u | .v | .w | .x | .y | .z => .error .unassignedMinor

/-- Format M, `d5 = B` (R99). -/
def decodeM (w : Word) : Decoded :=
  let d3 := w.digit 3
  let d2 := w.digit 2
  let d1 := w.digit 1
  let d0 := w.digit 0
  match w.digit 4 with
  | .A => unusedZero [d1, d0] (.lda d3 d2)
  | .B => unusedZero [d1, d0] (.lal d3 d2)
  | .C => unusedZero [d1, d0] (.lam d3 d2)
  | .D => unusedZero [d1, d0] (.lah d3 d2)
  | .E => unusedZero [d1, d0] (.sta d3 d2)
  | .F => unusedZero [d1, d0] (.sal d3 d2)
  | .G => unusedZero [d1, d0] (.sam d3 d2)
  | .H => unusedZero [d1, d0] (.sah d3 d2)
  | .I => unusedZero [d1, d0] (.mov d3 d2)
  | .J => unusedZero [d1, d0] (.xch d3 d2)
  | .K => unusedZero [d2, d1, d0] (.srz d3)
  | .L => unusedZero [d2, d1, d0] (.srp d3)
  | .M => unusedZero [d2, d1, d0] (.srn d3)
  | .zero | .n | .o | .p | .q | .r | .s | .t | .u | .v | .w | .x | .y | .z => .error .unassignedMinor

/-- Format I, `d5 = C` (R100). -/
def decodeI (w : Word) : Decoded :=
  let d3 := w.digit 3
  let d2 := w.digit 2
  let imm := w.imm6
  match w.digit 4 with
  | .A => .ok (.adi d3 d2 imm)
  | .B => .ok (.sbi d3 d2 imm)
  | .C => .ok (.mli d3 d2 imm)
  | .D => .ok (.dvi d3 d2 imm)
  | .E => unusedZero [d2] (.cmi d3 imm)
  | .F => unusedZero [d2] (.shl d3 imm)
  | .G => unusedZero [d2] (.shr d3 imm)
  | .H => unusedZero [d2] (.rol d3 imm)
  | .I => unusedZero [d2] (.ror d3 imm)
  | .J => unusedZero [d2] (.rcl d3 imm)
  | .K => unusedZero [d2] (.rcr d3 imm)
  | .L => unusedZero [d2] (.ldi d3 imm)
  | .M => unusedZero [d2] (.lil d3 imm)
  | .n => unusedZero [d2] (.lim d3 imm)
  | .o => unusedZero [d2] (.lih d3 imm)
  | .p => unusedZero [d2] (.ldn d3 imm)
  | .q => unusedZero [d2] (.stn d3 imm)
  | .r => unusedZero [d2] (.bri d3 imm)
  | .s => unusedZero [d3, d2] (.brs imm)
  | .t => unusedZero [d3, d2] (.sys imm)
  | .zero | .u | .v | .w | .x | .y | .z => .error .unassignedMinor

/-- Format W, `d5 = D` (R101). -/
def decodeW (w : Word) : Decoded :=
  let d3 := w.digit 3
  let imm := w.imm9
  match w.digit 4 with
  | .A => .ok (.pad d3 imm)
  | .B => .ok (.psb d3 imm)
  | .C => .ok (.pmu d3 imm)
  | .D => .ok (.pdv d3 imm)
  | .E => .ok (.int d3 imm)
  | .F => .ok (.inb d3 imm)
  | .G => .ok (.out d3 imm)
  | .H => .ok (.oub d3 imm)
  | .zero | .I | .J | .K | .L | .M | .n | .o | .p | .q | .r | .s | .t | .u | .v | .w | .x | .y | .z =>
    .error .unassignedMinor

/-- The decoder: the major opcode `d5` selects the format (R96), or the instruction of format A (R102). Every word gives an
instruction or a named refusal (R106). -/
def decode (w : Word) : Decoded :=
  let d4 := w.digit 4
  let imm := w.imm12
  match w.digit 5 with
  | .zero => decodeS w
  | .A => decodeR w
  | .B => decodeM w
  | .C => decodeI w
  | .D => decodeW w
  | .E => .ok (.ldr d4 imm)
  | .F => .ok (.ldl d4 imm)
  | .G => .ok (.ldm d4 imm)
  | .H => .ok (.ldh d4 imm)
  | .I => .ok (.str d4 imm)
  | .J => .ok (.stl d4 imm)
  | .K => .ok (.stm d4 imm)
  | .L => .ok (.sth d4 imm)
  | .M => unusedZero [d4] (.lad imm)
  | .n => unusedZero [d4] (.bra imm)
  | .o => unusedZero [d4] (.brl imm)
  | .p => unusedZero [d4] (.cal imm)
  | .q => unusedZero [d4] (.car imm)
  | .r => withFlag d4 (fun f => .ok (.bzX f imm))
  | .s => withFlag d4 (fun f => .ok (.bpX f imm))
  | .t => withFlag d4 (fun f => .ok (.bnX f imm))
  | .u | .v | .w => .error .unassignedMajor
  | .x => .ok (.ldx w.rest15)
  | .y => .ok (.stx w.rest15)
  | .z => .ok (.und w.rest15)

/-- The word with the digits `d5` to `d0` (R94). -/
def word6 (d5 d4 d3 d2 d1 d0 : Digit) : Word :=
  Bt.ofInt 18 (d0.val + 27 * (d1.val + 27 * (d2.val + 27 * (d3.val + 27 * (d4.val + 27 * d5.val)))))

/-- The word with the digits `d5` to `d2` and a hexad below them (R95, format I). -/
def wordI (d5 d4 d3 d2 : Digit) (imm : Hexad) : Word :=
  Bt.ofInt 18 (imm.val + 729 * (d2.val + 27 * (d3.val + 27 * (d4.val + 27 * d5.val))))

/-- The word with the digits `d5` to `d3` and a 9-trit value below them (R95, format W). -/
def wordW (d5 d4 d3 : Digit) (imm : Nonad) : Word :=
  Bt.ofInt 18 (imm.val + 19683 * (d3.val + 27 * (d4.val + 27 * d5.val)))

/-- The word with the digits `d5` and `d4` and a 12-trit value below them (R95, format A). -/
def wordA (d5 d4 : Digit) (imm : Addr) : Word :=
  Bt.ofInt 18 (imm.val + 531441 * (d4.val + 27 * d5.val))

/-- The word with the digit `d5` and fifteen trits that are not examined (R107, R108). -/
def wordX (d5 : Digit) (rest : Bt 15) : Word :=
  Bt.ofInt 18 (rest.val + 14348907 * d5.val)

/-- The digit of a flag selector (R103). -/
def Flag.digit (f : Flag) : Digit :=
  Digit.ofInt f.sel

/-- The digit of a system register selector (R104). -/
def SysReg.digit (k : SysReg) : Digit :=
  Digit.ofInt k.sel

/-- The encoder: the word of an instruction, written from the tables R97 to R102. -/
def encode : Instr → Word
  | .nop => word6 .zero .zero .zero .zero .zero .zero
  | .brk => word6 .zero .A .zero .zero .zero .zero
  | .ret => word6 .zero .B .zero .zero .zero .zero
  | .srt => word6 .zero .C .zero .zero .zero .zero
  | .brr a => word6 .zero .D a .zero .zero .zero
  | .caa a => word6 .zero .E a .zero .zero .zero
  | .tbX a b c f => word6 .zero .F a b c f.digit
  | .szX f => word6 .zero .G .zero .zero .zero f.digit
  | .spX f => word6 .zero .H .zero .zero .zero f.digit
  | .snX f => word6 .zero .I .zero .zero .zero f.digit
  | .zfX f => word6 .zero .J .zero .zero .zero f.digit
  | .pfX f => word6 .zero .K .zero .zero .zero f.digit
  | .nfX f => word6 .zero .L .zero .zero .zero f.digit
  | .lsr k a => word6 .zero .M k.digit a .zero .zero
  | .ssr a k => word6 .zero .n a k.digit .zero .zero
  | .psh a => word6 .zero .o a .zero .zero .zero
  | .pop a => word6 .zero .p a .zero .zero .zero
  | .add a b c => word6 .A .A a b c .zero
  | .adc a b c => word6 .A .B a b c .zero
  | .sub a b c => word6 .A .C a b c .zero
  | .sbc a b c => word6 .A .D a b c .zero
  | .mul a b c => word6 .A .E a b c .zero
  | .div a b c => word6 .A .F a b c .zero
  | .cmp a b => word6 .A .G a b .zero .zero
  | .min a b c => word6 .A .H a b c .zero
  | .max a b c => word6 .A .I a b c .zero
  | .teq a b c => word6 .A .J a b c .zero
  | .tem a b c => word6 .A .K a b c .zero
  | .sti a => word6 .A .L a .zero .zero .zero
  | .pti a => word6 .A .M a .zero .zero .zero
  | .nti a => word6 .A .n a .zero .zero .zero
  | .bin a b => word6 .A .o a b .zero .zero
  | .tri a b => word6 .A .p a b .zero .zero
  | .fdr a b => word6 .A .q a b .zero .zero
  | .rdr a b => word6 .A .r a b .zero .zero
  | .lda a b => word6 .B .A a b .zero .zero
  | .lal a b => word6 .B .B a b .zero .zero
  | .lam a b => word6 .B .C a b .zero .zero
  | .lah a b => word6 .B .D a b .zero .zero
  | .sta a b => word6 .B .E a b .zero .zero
  | .sal a b => word6 .B .F a b .zero .zero
  | .sam a b => word6 .B .G a b .zero .zero
  | .sah a b => word6 .B .H a b .zero .zero
  | .mov a b => word6 .B .I a b .zero .zero
  | .xch a b => word6 .B .J a b .zero .zero
  | .srz a => word6 .B .K a .zero .zero .zero
  | .srp a => word6 .B .L a .zero .zero .zero
  | .srn a => word6 .B .M a .zero .zero .zero
  | .adi a b imm => wordI .C .A a b imm
  | .sbi a b imm => wordI .C .B a b imm
  | .mli a b imm => wordI .C .C a b imm
  | .dvi a b imm => wordI .C .D a b imm
  | .cmi a imm => wordI .C .E a .zero imm
  | .shl a imm => wordI .C .F a .zero imm
  | .shr a imm => wordI .C .G a .zero imm
  | .rol a imm => wordI .C .H a .zero imm
  | .ror a imm => wordI .C .I a .zero imm
  | .rcl a imm => wordI .C .J a .zero imm
  | .rcr a imm => wordI .C .K a .zero imm
  | .ldi a imm => wordI .C .L a .zero imm
  | .lil a imm => wordI .C .M a .zero imm
  | .lim a imm => wordI .C .n a .zero imm
  | .lih a imm => wordI .C .o a .zero imm
  | .ldn a imm => wordI .C .p a .zero imm
  | .stn a imm => wordI .C .q a .zero imm
  | .bri a imm => wordI .C .r a .zero imm
  | .brs imm => wordI .C .s .zero .zero imm
  | .sys imm => wordI .C .t .zero .zero imm
  | .pad a imm => wordW .D .A a imm
  | .psb a imm => wordW .D .B a imm
  | .pmu a imm => wordW .D .C a imm
  | .pdv a imm => wordW .D .D a imm
  | .int a imm => wordW .D .E a imm
  | .inb a imm => wordW .D .F a imm
  | .out a imm => wordW .D .G a imm
  | .oub a imm => wordW .D .H a imm
  | .ldr a imm => wordA .E a imm
  | .ldl a imm => wordA .F a imm
  | .ldm a imm => wordA .G a imm
  | .ldh a imm => wordA .H a imm
  | .str a imm => wordA .I a imm
  | .stl a imm => wordA .J a imm
  | .stm a imm => wordA .K a imm
  | .sth a imm => wordA .L a imm
  | .lad imm => wordA .M .zero imm
  | .bra imm => wordA .n .zero imm
  | .brl imm => wordA .o .zero imm
  | .cal imm => wordA .p .zero imm
  | .car imm => wordA .q .zero imm
  | .bzX f imm => wordA .r f.digit imm
  | .bpX f imm => wordA .s f.digit imm
  | .bnX f imm => wordA .t f.digit imm
  | .ldx rest => wordX .x rest
  | .stx rest => wordX .y rest
  | .und rest => wordX .z rest

/-- The instruction a word spells under an `ENCODING` (R91). -/
def Encoding.decode (e : Encoding) (w : Word) : Decoded :=
  match e with
  | .specEnc1 => Sys2Proof.decode w
  | .table rows =>
    match rows.find? (fun r => decide (r.1 = w)) with
    | some r => .ok r.2
    | none => .error .notInEncoding

/-- The instruction that the text of an instruction stands for: the bare mnemonics `und` (R107, R308), `ldx` and `stx`
(assumption log 29) say nothing of the fifteen trits that are not examined, and these are 0. Every other instruction is itself. -/
def Instr.written (i : Instr) : Instr :=
  match i with
  | .ldx _ => .ldx (Bt.ofInt 15 0)
  | .stx _ => .stx (Bt.ofInt 15 0)
  | .und _ => .und (Bt.ofInt 15 0)
  | .nop | .brk | .ret | .srt | .brr _ | .caa _ | .tbX _ _ _ _ | .szX _ | .spX _ | .snX _ | .zfX _ | .pfX _ | .nfX _
  | .lsr _ _ | .ssr _ _ | .psh _ | .pop _ | .add _ _ _ | .adc _ _ _ | .sub _ _ _ | .sbc _ _ _ | .mul _ _ _
  | .div _ _ _ | .cmp _ _ | .min _ _ _ | .max _ _ _ | .teq _ _ _ | .tem _ _ _ | .sti _ | .pti _ | .nti _ | .bin _ _
  | .tri _ _ | .fdr _ _ | .rdr _ _ | .lda _ _ | .lal _ _ | .lam _ _ | .lah _ _ | .sta _ _ | .sal _ _ | .sam _ _
  | .sah _ _ | .mov _ _ | .xch _ _ | .srz _ | .srp _ | .srn _ | .adi _ _ _ | .sbi _ _ _ | .mli _ _ _ | .dvi _ _ _
  | .cmi _ _ | .shl _ _ | .shr _ _ | .rol _ _ | .ror _ _ | .rcl _ _ | .rcr _ _ | .ldi _ _ | .lil _ _ | .lim _ _
  | .lih _ _ | .ldn _ _ | .stn _ _ | .bri _ _ | .brs _ | .sys _ | .pad _ _ | .psb _ _ | .pmu _ _ | .pdv _ _
  | .int _ _ | .inb _ _ | .out _ _ | .oub _ _ | .ldr _ _ | .ldl _ _ | .ldm _ _ | .ldh _ _ | .str _ _ | .stl _ _
  | .stm _ _ | .sth _ _ | .lad _ | .bra _ | .brl _ | .cal _ | .car _ | .bzX _ _ | .bpX _ _ | .bnX _ _ => i

/-- The word the assembler writes for an instruction under an `ENCODING`, where there is one (R91): under SPEC-ENC-1 the
encoder's, for `und` `%z00000` (R107). DESIGN CHOICE (assumption log 6): under a table, the spec does not say which of an
instruction's words is written; it is the first word, in the order of the rows, that decodes to an instruction written alike. -/
def Encoding.encode (e : Encoding) (i : Instr) : Option Word :=
  match e with
  | .specEnc1 => some (Sys2Proof.encode i.written)
  | .table rows => (rows.map (fun r => r.1)).find? (fun w =>
    match (Encoding.table rows).decode w with
    | .ok j => decide (j.written = i.written)
    | .error _ => false)

/-- What R107 asks of any `ENCODING`: `und` has at least one word. That the word raises `#OP` is `execUnd`. -/
abbrev Encoding.Lawful (e : Encoding) : Prop :=
  ∃ (w : Word) (rest : Bt 15), e.decode w = .ok (.und rest)

/-- The instruction word an opcode-table number stands for. The table gives words as decimal integers, some negative
(`match_value`), and no bits, so the number is read as a 32-bit two's-complement integer and wrapped to 18 trits; a residue
modulo 3^18 in place of a negative integer gives the same word. Bits from `nbits` upward are 0. -/
def tableWord (nbits w : Nat) : Word :=
  let n := w % 2 ^ nbits % 4294967296
  toWord (if n < 2147483648 then (n : Int) else (n : Int) - 4294967296)

/-- The instruction the decoder reads from a word numbered as the opcode table numbers it. -/
def decodeTableWord (nbits w : Nat) : Option Instr :=
  match decode (tableWord nbits w) with
  | .ok i => some i
  | .error _ => none

end Sys2Proof
end

