-- ==== Sys2Proof/Machine/State.lean ====
section
/-!
DEFINITION. The state of the machine as plain data: everything 10_state.md, 45_io.md and 60_exceptions.md give it, and the state
after reset (R49, R370).
-/

namespace Sys2Proof.Machine

/-- The 26 user registers that hold a word (R20, R21). `rz` is not stored: it reads as 0 and discards writes (R22), which
`Regs.read` and `Regs.write` of Machine/Ops.lean say. -/
structure Regs where
  r0 : Word
  rA : Word
  rB : Word
  rC : Word
  rD : Word
  rE : Word
  rF : Word
  rG : Word
  rH : Word
  rI : Word
  rJ : Word
  rK : Word
  rL : Word
  rM : Word
  /-- index pointer of `ldn` and `stn` -/
  rn : Word
  /-- overflow: the high word of a product or of a dividend -/
  ro : Word
  /-- base pointer of loads and stores -/
  rp : Word
  rq : Word
  /-- system call return address -/
  rr : Word
  /-- stack pointer -/
  rs : Word
  rt : Word
  /-- remainder of a division -/
  ru : Word
  /-- base of the system call table -/
  rv : Word
  rw : Word
  /-- reserved for a future version, plain storage in this one (R21) -/
  rx : Word
  ry : Word
deriving DecidableEq, Repr

/-- `CR1`, the flags register (R30), trit by trit: the eight flags under their letters and the ten reserved trits, which are
plain storage (R40). The word software reads and writes is `FlagReg.word` and `FlagReg.ofWord` of Machine/Flags.lean. -/
structure FlagReg where
  c : Trit
  s : Trit
  d : Trit
  res3 : Trit
  res4 : Trit
  a : Trit
  b : Trit
  t : Trit
  i : Trit
  p : Trit
  res10 : Trit
  res11 : Trit
  res12 : Trit
  res13 : Trit
  res14 : Trit
  res15 : Trit
  res16 : Trit
  res17 : Trit
deriving DecidableEq, Repr

/-- One listed hexad of memory. The host's cell holds a byte; this machine's smallest unit is a hexad. -/
abbrev Cell := Addr × Hexad

/-- The 531,441 hexads of the memory space (R46, R60): the listed ones, by rising address. -/
abbrev Memory := List Cell

/-- What an address that is not listed reads as: the hexad 0. DESIGN CHOICE (assumption log 2): the spec leaves the contents
of memory at reset to the launch (R49). -/
def Memory.unlisted (_ : Addr) : Hexad :=
  Bt.ofInt 6 0

/-- The canonical form: addresses strictly rising, and no entry equal to what its address reads as unlisted. -/
abbrev Memory.wf (m : Memory) : Prop :=
  m.Pairwise (fun x y => x.1.val < y.1.val) ∧ ∀ x ∈ m, x.2 ≠ Memory.unlisted x.1

/-- The state of the machine. -/
structure State where
  /-- the user registers (R20) -/
  regs : Regs
  /-- the instruction pointer, `CR0` (R25, R29) -/
  ip : Addr
  /-- the flags register (R30) -/
  cr1 : FlagReg
  /-- the interrupt vector register (R41) -/
  cr2 : Word
  /-- the interrupt return address register (R42) -/
  cr3 : Word
  /-- reserved, plain storage (R43) -/
  cr4 : Word
  /-- debug registers (R44) -/
  dr1 : Word
  dr2 : Word
  dr3 : Word
  dr4 : Word
  /-- the memory space (R46) -/
  mem : Memory
  /-- the I/O event log, oldest first (R291) -/
  ioLog : List IoEvent
  /-- MODEL'S OWN. The answers the environment has lined up for the next I/O reads; when there is none, the answer is the free
  value `Config.ioOracle` (R291) -/
  ioAnswers : List Word
  /-- the external interrupts pending, by number, in the order the environment has chosen (R341) -/
  pendingInts : List Int
  /-- MODEL'S OWN. How many free values have been drawn -/
  draws : Nat
  /-- MODEL'S OWN. The setting of the parameters of 00_scope.md section 4, written by no step -/
  params : Params
deriving DecidableEq, Repr

/-- Why the machine stops with a fault. There is no such reason: no behaviour of this hardware is stuck
(93_implementation_defined.md section 1), and every exception the spec names enters a handler (R334, R375). -/
inductive Fault where
deriving DecidableEq, Repr

/-- Why the model gives an instruction no meaning. -/
inductive Refusal where
  /-- raised by `exec`'s arm of an instruction that has no meaning yet, with the instruction's mnemonic; safe, since nothing
  can then be proved of that instruction -/
  | notModelled (mnemonic : String)
deriving DecidableEq, Repr

/-- What a step and a meaning answer. -/
abbrev Result := Host.Outcome State Fault Refusal

/-- Every register at 0 but the stack pointer, which boot sets to `%000q` = -4 (R49). DESIGN CHOICE (assumption log 1) for the
registers R49 leaves unspecified. -/
def Regs.reset : Regs where
  r0 := toWord 0
  rA := toWord 0
  rB := toWord 0
  rC := toWord 0
  rD := toWord 0
  rE := toWord 0
  rF := toWord 0
  rG := toWord 0
  rH := toWord 0
  rI := toWord 0
  rJ := toWord 0
  rK := toWord 0
  rL := toWord 0
  rM := toWord 0
  rn := toWord 0
  ro := toWord 0
  rp := toWord 0
  rq := toWord 0
  rr := toWord 0
  rs := toWord (-4)
  rt := toWord 0
  ru := toWord 0
  rv := toWord 0
  rw := toWord 0
  rx := toWord 0
  ry := toWord 0

/-- All trits of `CR1` 0. DESIGN CHOICE (assumption log 1): R49 leaves `CR1` unspecified. -/
def FlagReg.reset : FlagReg where
  c := .zero
  s := .zero
  d := .zero
  res3 := .zero
  res4 := .zero
  a := .zero
  b := .zero
  t := .zero
  i := .zero
  p := .zero
  res10 := .zero
  res11 := .zero
  res12 := .zero
  res13 := .zero
  res14 := .zero
  res15 := .zero
  res16 := .zero
  res17 := .zero

/-- The machine right after reset: execution begins at `%zzzz` = -265,720, `rs` is `%000q`, no interrupt is pending (R49,
R370). Everything else the spec leaves unspecified, and stands at the values of assumption log 1, 2, 4 and 5. -/
def State.reset : State where
  regs := .reset
  ip := Bt.ofInt 12 (-265720)
  cr1 := .reset
  cr2 := toWord 0
  cr3 := toWord 0
  cr4 := toWord 0
  dr1 := toWord 0
  dr2 := toWord 0
  dr3 := toWord 0
  dr4 := toWord 0
  mem := []
  ioLog := []
  ioAnswers := []
  pendingInts := []
  draws := 0
  params := .default

end Sys2Proof.Machine
end

