-- ==== Sys2Proof/Machine/Flags.lean ====
section
/-!
DEFINITION. The flags register: its trits by position and as a word (10_state.md R30, R31, R40), one flag read and written, and
every flag computation the spec gives (R130, R141, R145), and the condition of `#IF` (R336).
-/

namespace Sys2Proof.Machine

/-- Trit `k` of `CR1` (R30). -/
def FlagReg.tritAt (f : FlagReg) : Nat → Trit
  | 0 => f.c
  | 1 => f.s
  | 2 => f.d
  | 3 => f.res3
  | 4 => f.res4
  | 5 => f.a
  | 6 => f.b
  | 7 => f.t
  | 8 => f.i
  | 9 => f.p
  | 10 => f.res10
  | 11 => f.res11
  | 12 => f.res12
  | 13 => f.res13
  | 14 => f.res14
  | 15 => f.res15
  | 16 => f.res16
  | 17 => f.res17
  | _ => .zero

/-- `CR1` as the 18-trit word `lsr` reads (R31, R306). -/
def FlagReg.word (f : FlagReg) : Word :=
  ofTrits 18 f.tritAt

/-- `CR1` after `ssr` has written a word to it: all 18 trits, the reserved ones as plain storage (R40, R307). -/
def FlagReg.ofWord (w : Word) : FlagReg where
  c := w.trit 0
  s := w.trit 1
  d := w.trit 2
  res3 := w.trit 3
  res4 := w.trit 4
  a := w.trit 5
  b := w.trit 6
  t := w.trit 7
  i := w.trit 8
  p := w.trit 9
  res10 := w.trit 10
  res11 := w.trit 11
  res12 := w.trit 12
  res13 := w.trit 13
  res14 := w.trit 14
  res15 := w.trit 15
  res16 := w.trit 16
  res17 := w.trit 17

/-- `F.x`, the trit of a lettered flag (R31, R248). -/
def FlagReg.get (f : FlagReg) : Flag → Trit
  | .c => f.c
  | .s => f.s
  | .d => f.d
  | .a => f.a
  | .b => f.b
  | .t => f.t
  | .i => f.i
  | .p => f.p

/-- `F.x <- v`: one flag written, the other 17 trits of `CR1` unchanged (R260). -/
def FlagReg.set (f : FlagReg) (x : Flag) (v : Trit) : FlagReg :=
  match x with
  | .c => { f with c := v }
  | .s => { f with s := v }
  | .d => { f with d := v }
  | .a => { f with a := v }
  | .b => { f with b := v }
  | .t => { f with t := v }
  | .i => { f with i := v }
  | .p => { f with p := v }

/-- `F.x` of the machine (R31). -/
def State.flag (s : State) (x : Flag) : Trit :=
  s.cr1.get x

/-- `F.x <- v` on the machine. -/
def State.setFlag (s : State) (x : Flag) (v : Trit) : State :=
  { s with cr1 := s.cr1.set x v }

/-- Whether trits of `CR1` have the given values. -/
def FlagReg.agrees (f : FlagReg) (p : List (Nat × Trit)) : Bool :=
  p.all (fun x => decide (f.tritAt x.1 = x.2))

/-- Whether one alternative of `INVALID_FLAG` is met by an instruction that finds `CR1` as `before` and would leave it as `after`
(R336). -/
def FlagReg.meets (before after : FlagReg) (i : Instr) (c : FlagCondition) : Bool :=
  (match c.instr with
    | none => true
    | some j => decide (i = j)) &&
    before.agrees c.before && after.agrees c.after

/-- Whether `INVALID_FLAG` is met by the instruction that takes the machine from `s` to `t` (R336). -/
def State.invalidFlag (s : State) (i : Instr) (t : State) : Bool :=
  s.params.invalidFlag.any (fun c => s.cr1.meets t.cr1 i c)

/-- R130: Carry and Sign after an add, a subtract or a compare with the exact result `e`. Carry is the carry out of trit 17,
`(e - bt_18(e)) / 3^18`, and Sign the sign of the 18-trit result. -/
def State.arithFlags (s : State) (e : Int) : State :=
  (s.setFlag .c (Trit.ofInt (shiftOut e 18))).setFlag .s (signTrit (bt 18 e))

/-- R141: Sign is the sign of the whole product; Carry is a free value (U3, assumption log 7). -/
def State.mulFlags (s : State) (p : Int) : State :=
  (s.setFlag .c (Trit.ofInt (Config.mulCarry s.draws))).setFlag .s (signTrit p)

/-- R145: Carry is the sign of a quotient that does not fit a word and 0 for one that does; Sign is the sign of the word
written. -/
def State.divFlags (s : State) (q : Int) : State :=
  (s.setFlag .c (if half 18 < q ∨ q < -half 18 then signTrit q else .zero)).setFlag .s (signTrit (bt 18 q))

end Sys2Proof.Machine
end

