-- ==== Sys2Proof/Machine/Ops.lean ====
section
/-!
DEFINITION. The named operations over registers, memory, the stack, the instruction pointer, the system registers and the I/O
space, and taking an exception. Every meaning is made of these. There is no return from an exception to model beside its entry:
no instruction reads `CR3` into IP (60_exceptions.md R343), and a handler returns through `lsr CR3, rX` and `brr rX`.
-/

namespace Sys2Proof.Machine

/-- `r[x]` (00_scope.md section 5.2): `rz` reads as 0 (R22). -/
def Regs.read (r : Regs) : Reg → Word
  | .zero => r.r0
  | .A => r.rA
  | .B => r.rB
  | .C => r.rC
  | .D => r.rD
  | .E => r.rE
  | .F => r.rF
  | .G => r.rG
  | .H => r.rH
  | .I => r.rI
  | .J => r.rJ
  | .K => r.rK
  | .L => r.rL
  | .M => r.rM
  | .n => r.rn
  | .o => r.ro
  | .p => r.rp
  | .q => r.rq
  | .r => r.rr
  | .s => r.rs
  | .t => r.rt
  | .u => r.ru
  | .v => r.rv
  | .w => r.rw
  | .x => r.rx
  | .y => r.ry
  | .z => toWord 0

/-- `r[x] <- v`: a write to `rz` is discarded (R22). -/
def Regs.write (r : Regs) (reg : Reg) (v : Word) : Regs :=
  match reg with
  | .zero => { r with r0 := v }
  | .A => { r with rA := v }
  | .B => { r with rB := v }
  | .C => { r with rC := v }
  | .D => { r with rD := v }
  | .E => { r with rE := v }
  | .F => { r with rF := v }
  | .G => { r with rG := v }
  | .H => { r with rH := v }
  | .I => { r with rI := v }
  | .J => { r with rJ := v }
  | .K => { r with rK := v }
  | .L => { r with rL := v }
  | .M => { r with rM := v }
  | .n => { r with rn := v }
  | .o => { r with ro := v }
  | .p => { r with rp := v }
  | .q => { r with rq := v }
  | .r => { r with rr := v }
  | .s => { r with rs := v }
  | .t => { r with rt := v }
  | .u => { r with ru := v }
  | .v => { r with rv := v }
  | .w => { r with rw := v }
  | .x => { r with rx := v }
  | .y => { r with ry := v }
  | .z => r

/-- `r[x]`. -/
def State.get (s : State) (reg : Reg) : Word :=
  s.regs.read reg

/-- `r[x] <- v`. -/
def State.set (s : State) (reg : Reg) (v : Word) : State :=
  { s with regs := s.regs.write reg v }

/-- `r[x] <- bt_18(v)` (R5). -/
def State.put (s : State) (reg : Reg) (v : Int) : State :=
  s.set reg (toWord v)

/-- An instruction's effect is complete: the next state. -/
def done (s : State) : Result :=
  .next s

/-! ## Memory -/

/-- The hexad at an address: the listed one, or what an unlisted address reads as (R62). -/
def Memory.read : Memory → Addr → Hexad
  | [], a => Memory.unlisted a
  | (k, h) :: m, a => if k = a then h else Memory.read m a

/-- An entry put in its place by address. -/
def Memory.insert (m : Memory) (a : Addr) (h : Hexad) : Memory :=
  match m with
  | [] => [(a, h)]
  | (k, x) :: m' => if a.val < k.val then (a, h) :: (k, x) :: m' else (k, x) :: Memory.insert m' a h

/-- One hexad written (R63). Writing what the address reads as unlisted removes its entry, so the canonical form stays. -/
def Memory.write (m : Memory) (a : Addr) (h : Hexad) : Memory :=
  let rest := m.filter (fun c => decide (c.1 ≠ a))
  if h = Memory.unlisted a then rest else Memory.insert rest a h

/-- The address `k` hexads above `a`, wrapped to 12 trits (R62, R64). -/
def Bt.plus (a : Addr) (k : Int) : Addr :=
  Bt.ofInt 12 (a.val + k)

/-- `MemRead(a, 1)` (R62). -/
def State.readHexad (s : State) (a : Addr) : Hexad :=
  s.mem.read a

/-- `MemRead(a, 3)`: low, middle and high hexad at `a`, `a+1`, `a+2`, each address wrapped (R61, R62, R64). -/
def State.readWord (s : State) (a : Addr) : Word :=
  ofHexads (s.readHexad a) (s.readHexad (Bt.plus a 1)) (s.readHexad (Bt.plus a 2))

/-- `MemWrite(a, 1, h)` (R63). -/
def State.writeHexad (s : State) (a : Addr) (h : Hexad) : State :=
  { s with mem := s.mem.write a h }

/-- `MemWrite(a, 3, v)` (R63): little-endian, each address wrapped (R61, R64). -/
def State.writeWord (s : State) (a : Addr) (v : Word) : State :=
  ((s.writeHexad a (v.hexad .low)).writeHexad (Bt.plus a 1) (v.hexad .mid)).writeHexad (Bt.plus a 2) (v.hexad .high)

/-! ## The instruction pointer -/

/-- `IP <- align(t)` (R240). -/
def State.jump (s : State) (t : Int) : State :=
  { s with ip := align t }

/-- `IP <- bt_12(IP + 3)`: the address of the following instruction word, wrapped at the top of memory (R27 step 4, R28,
R252). -/
def State.advance (s : State) : State :=
  { s with ip := Bt.plus s.ip 3 }

/-! ## The stack -/

/-- Where a push writes: `bt_12(r[s])` (R71, R228). -/
def State.pushAddr (s : State) : Addr :=
  Bt.ofInt 12 (s.get .s).val

/-- `Push(v)` of R228: the word is written at `rs`, then `rs` moves down by 3. -/
def State.push (s : State) (v : Word) : State :=
  (s.writeWord s.pushAddr v).put .s ((s.get .s).val - 3)

/-- Where a pop reads: `bt_12(r[s] + 3)`, or `bt_12(r[s])` under the literal `POP_ORDER` (R71, R229). -/
def State.popAddr (s : State) : Addr :=
  match s.params.popOrder with
  | .before => Bt.ofInt 12 ((s.get .s).val + 3)
  | .after => Bt.ofInt 12 (s.get .s).val

/-- The word `Pop()` answers (R229). -/
def State.popped (s : State) : Word :=
  s.readWord s.popAddr

/-- The stack pointer moved by `Pop()`: up by 3 (R229). -/
def State.popMove (s : State) : State :=
  s.put .s ((s.get .s).val + 3)

/-! ## Free values -/

/-- One free value has been drawn. -/
def State.drew (s : State) : State :=
  { s with draws := s.draws + 1 }

/-! ## Exceptions -/

/-- The five hardware exceptions (R330). -/
inductive Exc where
  /-- `#D0` -/
  | divideByZero
  /-- `#BK` -/
  | breakpoint
  /-- `#PV` -/
  | protection
  /-- `#IF`, raised by `checkFlags` under the parameter `INVALID_FLAG`, whose default is never (R336) -/
  | invalidFlag
  /-- `#OP` -/
  | undefinedOpcode
deriving DecidableEq, Repr

/-- The number of an exception (R330). -/
def Exc.number : Exc → Int
  | .divideByZero => 0
  | .breakpoint => 1
  | .protection => 2
  | .invalidFlag => 3
  | .undefinedOpcode => 4

/-- Where the vector of interrupt `n` stands: `bt_12(CR2 + 3*n)` (R71, R334, R338). -/
def State.vectorAddr (s : State) (n : Int) : Addr :=
  Bt.ofInt 12 (s.cr2.val + 3 * n)

/-- R334: `CR3` receives the saved IP with high hexad 0, IP the aligned vector; no flag, no other register and no memory
changes. -/
def State.enter (s : State) (n : Int) (saved : Addr) : State :=
  { s with cr3 := toWord saved.val, ip := align (s.readWord (s.vectorAddr n)).val }

/-- What an exception raised while an instruction executes saves (R334): IP, which addresses the following instruction, or
under `EXC_SAVED_IP` the instruction's own address. -/
def State.savedIp (s : State) : Addr :=
  match s.params.excSavedIp with
  | .advanced => s.ip
  | .faulting => Bt.plus s.ip (-3)

/-- The state after `raise #e` in the execute phase (R334). -/
def State.raised (s : State) (e : Exc) : State :=
  s.enter e.number s.savedIp

/-- `raise #e` in the execute phase: taking the exception is the instruction's whole effect (R335). -/
def raise (e : Exc) (s : State) : Result :=
  done (s.raised e)

/-- What becomes of an instruction whose rule answers `r` from `s`: where its effect would meet `INVALID_FLAG` it has none and
raises `#IF` instead, which is precise as every exception (R335, R336). -/
def checkFlags (i : Instr) (s : State) (r : Result) : Result :=
  match r with
  | .next t => if s.invalidFlag i t then raise .invalidFlag s else .next t
  | .fault f => .fault f
  | .refused f => .refused f

/-- Whether step 1 of R27 takes an external interrupt: one is pending and `F.I` is +1 (R38, R341). -/
def State.interruptReady (s : State) : Bool :=
  decide (s.flag .i = .pos) && !s.pendingInts.isEmpty

/-- The external interrupt the environment has chosen is taken as R334, with IP the address of the instruction not yet
executed, and its pending signal cleared (R341). -/
def State.takeInterrupt (s : State) : State :=
  match s.pendingInts with
  | [] => s
  | n :: rest => State.enter { s with pendingInts := rest } n s.ip

/-- Whether IP as a word equals a debug register: all 18 trits are compared (R44, R337). -/
def State.debugMatch (s : State) : Bool :=
  decide (s.ip.val = s.dr1.val) || decide (s.ip.val = s.dr2.val) || decide (s.ip.val = s.dr3.val) ||
    decide (s.ip.val = s.dr4.val)

/-- Whether step 2 of R27 raises `#BK`: `F.T` is +1 and a debug register matches (R37, R337). -/
def State.breakpointHit (s : State) : Bool :=
  decide (s.flag .t = .pos) && s.debugMatch

/-- The debug `#BK` before the fetch: `CR3` receives the breakpointed instruction's own address (R337). -/
def State.takeBreakpoint (s : State) : State :=
  s.enter Exc.breakpoint.number s.ip

/-- Step 3 of R27: the instruction word at IP, not adjusted by the Absolute flag. -/
def State.fetch (s : State) : Word :=
  s.readWord s.ip

/-- Step 5 of R27: what the fetched word spells under the parameter `ENCODING` (R91). -/
def State.decoded (s : State) : Decoded :=
  s.params.encoding.decode s.fetch

/-! ## System registers -/

/-- `SR[k]` read (R304): `CR0` is IP with high hexad 0. -/
def State.sysRead (s : State) : SysReg → Word
  | .cr0 => toWord s.ip.val
  | .cr1 => s.cr1.word
  | .cr2 => s.cr2
  | .cr3 => s.cr3
  | .cr4 => s.cr4
  | .dr1 => s.dr1
  | .dr2 => s.dr2
  | .dr3 => s.dr3
  | .dr4 => s.dr4

/-- `SR[k]` written, where the write is allowed (R45, R307): `CR0` is aligned, every other register takes all 18 trits. -/
def State.sysWrite (s : State) (k : SysReg) (v : Word) : State :=
  match k with
  | .cr0 => s.jump v.val
  | .cr1 => { s with cr1 := FlagReg.ofWord v }
  | .cr2 => { s with cr2 := v }
  | .cr3 => { s with cr3 := v }
  | .cr4 => { s with cr4 := v }
  | .dr1 => { s with dr1 := v }
  | .dr2 => { s with dr2 := v }
  | .dr3 => { s with dr3 := v }
  | .dr4 => { s with dr4 := v }

/-! ## The I/O space -/

/-- An event appended to the I/O log (R291, R298). -/
def State.logIo (s : State) (e : IoEvent) : State :=
  { s with ioLog := s.ioLog ++ [e] }

/-- What `IORead(io9, kind, F.B)` answers: the answer the environment has lined up, else a free value (R291). -/
def State.ioAnswer (s : State) (addr : Nonad) (kind : IoKind) : Word :=
  match s.ioAnswers with
  | w :: _ => w
  | [] => toWord (Config.ioOracle s.draws s.ioLog addr kind (s.flag .b))

/-- The machine after `IORead(io9, kind, F.B)`: the answer is used up and the read is logged (R291). -/
def State.ioRead (s : State) (addr : Nonad) (kind : IoKind) : State :=
  match s.ioAnswers with
  | w :: rest => State.logIo { s with ioAnswers := rest } (.read addr kind (s.flag .b) w)
  | [] => s.drew.logIo (.read addr kind (s.flag .b) (s.ioAnswer addr kind))

/-- `IOWrite(io9, kind, v, F.B)` logged, unconverted (R291, R296). -/
def State.ioWrite (s : State) (addr : Nonad) (kind : IoKind) (v : Word) : State :=
  s.logIo (.write addr kind v (s.flag .b))

end Sys2Proof.Machine
end

