-- ==== Sys2Proof/Machine/Operands.lean ====
section
/-!
DEFINITION. The operand forms: every way an instruction forms a data address (42_memory_ops.md R190, R206, R231) and a branch
target (43_branch.md R240, R241).
-/

namespace Sys2Proof.Machine

/-- `EA(a)` of R190: the base pointer `rp` is added when the Absolute flag is +1; the sum is reduced to 12 trits. -/
def State.ea (s : State) (a : Int) : Addr :=
  Bt.ofInt 12 (if s.flag .a = .pos then a + (s.get .p).val else a)

/-- The absolute mode: `EA(addr12)` (R231). -/
def State.eaAbs (s : State) (a : Addr) : Addr :=
  s.ea a.val

/-- The register-indirect mode: `EA(r[reg])`, whose high hexad is ignored (R201, R212, R231). -/
def State.eaInd (s : State) (reg : Reg) : Addr :=
  s.ea (s.get reg).val

/-- The indexed address `NA(disp6)` of R206: `rp` enters once whatever the Absolute flag holds; under the switch
`LDN_RP_TWICE` an Absolute flag of +1 adds it again. -/
def State.na (s : State) (disp : Hexad) : Addr :=
  Bt.ofInt 12
    (disp.val + (s.get .p).val + (s.get .n).val +
      (if s.params.ldnRpTwice = true ∧ s.flag .a = .pos then (s.get .p).val else 0))

/-- After an indexed access the index moves by the Direction flag: `r[n] <- bt_18(r[n] + F.D)` (R206). -/
def State.stepIndex (s : State) : State :=
  s.put .n ((s.get .n).val + (s.flag .d).toInt)

/-- The entry of the system call table for call `n`: `bt_12(r[v] + 3*n)` (R71, R300). -/
def State.callAddr (s : State) (n : Hexad) : Addr :=
  Bt.ofInt 12 ((s.get .v).val + 3 * n.val)

/-- A branch to `IP + disp`, IP being the address of the following instruction (R241). -/
def State.branch (s : State) (disp : Int) : State :=
  s.jump (s.ip.val + disp)

end Sys2Proof.Machine
end

