-- ==== Sys2Proof/Machine/Arith.lean ====
section
/-!
DEFINITION. The arithmetic instructions (40_arithmetic.md): add, subtract, multiply, divide. Every source is read before
anything is written, because each meaning computes its exact integer result from the state it is given.
-/

namespace Sys2Proof.Machine

/-! ## Shared operations -/

/-- The add and subtract family: the exact result `e` goes wrapped to the destination, the flags follow R130. -/
def addTo (dst : Reg) (e : Int) (s : State) : Result :=
  done ((s.put dst e).arithFlags e)

/-- The two words of a product (R139): `lo` is `bt_18(p)`, `hi` is `(p - lo) / 3^18`. -/
def productLow (p : Int) : Word :=
  toWord p

/-- The high word of a product (R139). -/
def productHigh (p : Int) : Word :=
  toWord (shiftOut p 18)

/-- The two register writes of a multiply (R140): `lo` to the destination and `hi` to `ro`. When the destination is `ro`
itself, which of the two survives is a free value (R23, U5, assumption log 8). -/
def writeProduct (dst : Reg) (p : Int) (s : State) : State :=
  if dst = .o then
    s.set .o (if Config.mulHighSurvives s.draws then productHigh p else productLow p)
  else
    (s.set dst (productLow p)).set .o (productHigh p)

/-- The multiply family: the product split by R139, the flags of R141. -/
def multiplyTo (dst : Reg) (p : Int) (s : State) : Result :=
  done ((writeProduct dst p s).mulFlags p).drew

/-- The truncated quotient and remainder, moved one step further from zero when that rounding is asked for and the division
is not exact: the only two pairs with `N = q*d + m` and `|m| < |d|`. -/
def quotRem (away : Bool) (N d : Int) : Int × Int :=
  let q := N.tdiv d
  let m := N.tmod d
  if away = true ∧ m ≠ 0 then (q + N.sign * d.sign, m - N.sign * d.natAbs) else (q, m)

/-- `DIVMOD(N, d)` (R144): truncation toward zero by default. -/
def divMod (p : Params) (N d : Int) : Int × Int :=
  match p.divMod with
  | .truncate => quotRem false N d
  | .lawful => quotRem (Config.divRoundAway N d) N d

/-- The dividend `N = r[o]*3^18 + r[a]` (R144). -/
def dividend (a : Reg) (s : State) : Int :=
  (s.get .o).val * pow3 18 + (s.get a).val

/-- The divide family (R144): a zero divisor raises `#D0` and writes nothing; else the quotient goes to the destination, then
the remainder to `ru`, and the flags follow R145. -/
def divideTo (a : Reg) (d : Int) (dst : Reg) (s : State) : Result :=
  if d = 0 then
    raise .divideByZero s
  else
    let qm := divMod s.params (dividend a s) d
    done (((s.put dst qm.1).put .u qm.2).divFlags qm.1)

/-! ## Addition -/

/-- R131. -/
def execAdd (a b c : Reg) (s : State) : Result :=
  addTo c ((s.get a).val + (s.get b).val) s

/-- R132. -/
def execAdc (a b c : Reg) (s : State) : Result :=
  addTo c ((s.get a).val + (s.get b).val + (s.flag .c).toInt) s

/-- R133. -/
def execAdi (a b : Reg) (imm : Hexad) (s : State) : Result :=
  addTo b ((s.get a).val + imm.val) s

/-- R134. -/
def execPad (a : Reg) (imm : Nonad) (s : State) : Result :=
  addTo a ((s.get a).val + imm.val) s

/-! ## Subtraction -/

/-- R135. -/
def execSub (a b c : Reg) (s : State) : Result :=
  addTo c ((s.get a).val - (s.get b).val) s

/-- R136. -/
def execSbc (a b c : Reg) (s : State) : Result :=
  addTo c ((s.get a).val - (s.get b).val - (s.flag .c).toInt) s

/-- R137. -/
def execSbi (a b : Reg) (imm : Hexad) (s : State) : Result :=
  addTo b ((s.get a).val - imm.val) s

/-- R138. -/
def execPsb (a : Reg) (imm : Nonad) (s : State) : Result :=
  addTo a ((s.get a).val - imm.val) s

/-! ## Multiplication -/

/-- R140. -/
def execMul (a b c : Reg) (s : State) : Result :=
  multiplyTo c ((s.get a).val * (s.get b).val) s

/-- R142. -/
def execMli (a b : Reg) (imm : Hexad) (s : State) : Result :=
  multiplyTo b ((s.get a).val * imm.val) s

/-- R143. -/
def execPmu (a : Reg) (imm : Nonad) (s : State) : Result :=
  multiplyTo a ((s.get a).val * imm.val) s

/-! ## Division -/

/-- R146. -/
def execDiv (a b c : Reg) (s : State) : Result :=
  divideTo a (s.get b).val c s

/-- R147. -/
def execDvi (a b : Reg) (imm : Hexad) (s : State) : Result :=
  divideTo a imm.val b s

/-- R148. -/
def execPdv (a : Reg) (imm : Nonad) (s : State) : Result :=
  divideTo a imm.val a s

end Sys2Proof.Machine
end

