-- ==== Sys2Proof/Machine/Branch.lean ====
section
/-!
DEFINITION. The branch, skip, call, return and flag instructions (43_branch.md). IP is the address of the following
instruction when a meaning begins (R27), and an instruction that does not assign IP leaves it there.
-/

namespace Sys2Proof.Machine

/-! ## Shared operations -/

/-- A conditional branch: taken exactly when the flag has the value, else no effect (R242). -/
def branchIf (f : Flag) (v : Trit) (disp : Addr) (s : State) : Result :=
  done (if s.flag f = v then s.branch disp.val else s)

/-- A conditional skip over the following instruction (R252). -/
def skipIf (f : Flag) (v : Trit) (s : State) : Result :=
  done (if s.flag f = v then s.advance else s)

/-- A call: IP is pushed, then IP is the aligned target, which was computed before the push (R256 to R258). -/
def callTo (target : Int) (s : State) : Result :=
  done ((s.push (toWord s.ip.val)).jump target)

/-! ## Unconditional branches -/

/-- R243. -/
def execBra (imm : Addr) (s : State) : Result :=
  done (s.jump imm.val)

/-- R244. -/
def execBrr (a : Reg) (s : State) : Result :=
  done (s.jump (s.get a).val)

/-- R245. -/
def execBri (a : Reg) (imm : Hexad) (s : State) : Result :=
  done (s.jump ((s.get a).val + imm.val))

/-- R246. -/
def execBrs (imm : Hexad) (s : State) : Result :=
  done (s.branch imm.val)

/-- R247. -/
def execBrl (imm : Addr) (s : State) : Result :=
  done (s.branch imm.val)

/-! ## Conditional branches and skips -/

/-- R249. -/
def execBzX (f : Flag) (imm : Addr) (s : State) : Result :=
  branchIf f .zero imm s

/-- R250. -/
def execBpX (f : Flag) (imm : Addr) (s : State) : Result :=
  branchIf f .pos imm s

/-- R251. -/
def execBnX (f : Flag) (imm : Addr) (s : State) : Result :=
  branchIf f .neg imm s

/-- R252. -/
def execSzX (f : Flag) (s : State) : Result :=
  skipIf f .zero s

/-- R253. -/
def execSpX (f : Flag) (s : State) : Result :=
  skipIf f .pos s

/-- R254. -/
def execSnX (f : Flag) (s : State) : Result :=
  skipIf f .neg s

/-- R255: the flag chooses the register that holds the displacement. -/
def execTbX (a b c : Reg) (f : Flag) (s : State) : Result :=
  match s.flag f with
  | .neg => done (s.branch (s.get a).val)
  | .zero => done (s.branch (s.get b).val)
  | .pos => done (s.branch (s.get c).val)

/-! ## Calls and return -/

/-- R256. -/
def execCal (imm : Addr) (s : State) : Result :=
  callTo imm.val s

/-- R257. -/
def execCar (imm : Addr) (s : State) : Result :=
  callTo (s.ip.val + imm.val) s

/-- R258: the register holds an absolute address, or a displacement under the switch `CAA_RELATIVE`; it is read before the
push. -/
def execCaa (a : Reg) (s : State) : Result :=
  callTo (if s.params.caaRelative then s.ip.val + (s.get a).val else (s.get a).val) s

/-- R259. -/
def execRet (s : State) : Result :=
  done (s.popMove.jump s.popped.val)

/-! ## Flag-setting instructions -/

/-- R260. -/
def execZfX (f : Flag) (s : State) : Result :=
  done (s.setFlag f .zero)

/-- R261. -/
def execPfX (f : Flag) (s : State) : Result :=
  done (s.setFlag f .pos)

/-- R262. -/
def execNfX (f : Flag) (s : State) : Result :=
  done (s.setFlag f .neg)

end Sys2Proof.Machine
end

