-- ==== Sys2Proof/Machine/Logic.lean ====
section
/-!
DEFINITION. The logical instructions (41_logical.md): compare, shift, rotate, tritwise logic.
-/

namespace Sys2Proof.Machine

/-! ## Compare -/

/-- R161: the flags of the difference, no register written. -/
def execCmp (a b : Reg) (s : State) : Result :=
  done (s.arithFlags ((s.get a).val - (s.get b).val))

/-- R162. -/
def execCmi (a : Reg) (imm : Hexad) (s : State) : Result :=
  done (s.arithFlags ((s.get a).val - imm.val))

/-! ## Shifts and rotates -/

/-- `k` repetitions of a step (R163). -/
def repeatStep {α : Type} (f : α → α) : Nat → α → α
  | 0, x => x
  | k + 1, x => repeatStep f k (f x)

/-- One trit of `shl` (R164): trit 17 goes to Carry, trit 0 becomes 0. -/
def shlStep (x : Word × Trit) : Word × Trit :=
  (toWord (3 * x.1.val), x.1.trit 17)

/-- One trit of `shr` (R165): trit 0 goes to Carry, trit 17 becomes 0. -/
def shrStep (x : Word × Trit) : Word × Trit :=
  (toWord (shiftOut x.1.val 1), x.1.trit 0)

/-- `rol` by `k` (R166): new trit `(i + k) mod 18` is old trit `i`. -/
def rolWord (w : Word) (k : Nat) : Word :=
  ofTrits 18 (fun j => w.trit ((j + 18 - k % 18) % 18))

/-- `ror` by `k` (R167): new trit `i` is old trit `(i + k) mod 18`. -/
def rorWord (w : Word) (k : Nat) : Word :=
  ofTrits 18 (fun i => w.trit ((i + k) % 18))

/-- Position `i` of the 19-trit ring of R168: the trits of the register at 0 to 17, Carry at 18. -/
def ring (x : Word × Trit) (i : Nat) : Trit :=
  if i = 18 then x.2 else x.1.trit i

/-- `rcl` by `k` (R168): new position `(i + k) mod 19` is old position `i`. -/
def rclRing (x : Word × Trit) (k : Nat) : Word × Trit :=
  let p := fun j => ring x ((j + 19 - k % 19) % 19)
  (ofTrits 18 p, p 18)

/-- `rcr` by `k` (R169): new position `i` is old position `(i + k) mod 19`. -/
def rcrRing (x : Word × Trit) (k : Nat) : Word × Trit :=
  let p := fun i => ring x ((i + k) % 19)
  (ofTrits 18 p, p 18)

/-- A shift or rotate that writes the register and Carry (R164, R165, R168, R169). By a negative count both are free values
(R163, U6, assumption log 9). -/
def shiftCarry (f : Nat → Word × Trit → Word × Trit) (a : Reg) (count : Hexad) (s : State) : Result :=
  if count.val < 0 then
    done ((s.put a (Config.negativeCountResult s.draws)).setFlag .c (Trit.ofInt (Config.negativeCountCarry s.draws))).drew
  else
    let x := f count.val.toNat (s.get a, s.flag .c)
    done ((s.set a x.1).setFlag .c x.2)

/-- A rotate that writes the register alone (R166, R167). By a negative count it is a free value (R163, U6). -/
def rotateOnly (f : Word → Nat → Word) (a : Reg) (count : Hexad) (s : State) : Result :=
  if count.val < 0 then
    done (s.put a (Config.negativeCountResult s.draws)).drew
  else
    done (s.set a (f (s.get a) count.val.toNat))

/-- R164. -/
def execShl (a : Reg) (imm : Hexad) (s : State) : Result :=
  shiftCarry (fun k x => repeatStep shlStep k x) a imm s

/-- R165. -/
def execShr (a : Reg) (imm : Hexad) (s : State) : Result :=
  shiftCarry (fun k x => repeatStep shrStep k x) a imm s

/-- R166. -/
def execRol (a : Reg) (imm : Hexad) (s : State) : Result :=
  rotateOnly rolWord a imm s

/-- R167. -/
def execRor (a : Reg) (imm : Hexad) (s : State) : Result :=
  rotateOnly rorWord a imm s

/-- R168. -/
def execRcl (a : Reg) (imm : Hexad) (s : State) : Result :=
  shiftCarry (fun k x => rclRing x k) a imm s

/-- R169. -/
def execRcr (a : Reg) (imm : Hexad) (s : State) : Result :=
  shiftCarry (fun k x => rcrRing x k) a imm s

/-! ## Tritwise operations -/

/-- A one-trit function applied to each of the 18 trits. -/
def tritwise1 (f : Trit → Trit) (w : Word) : Word :=
  ofTrits 18 (fun i => f (w.trit i))

/-- A two-trit function applied to each of the 18 positions. -/
def tritwise2 (f : Trit → Trit → Trit) (u w : Word) : Word :=
  ofTrits 18 (fun i => f (u.trit i) (w.trit i))

/-- Simple ternary inversion of a trit (R170). -/
def tritSti : Trit → Trit
  | .neg => .pos
  | .zero => .zero
  | .pos => .neg

/-- Positive ternary inversion of a trit (R171). -/
def tritPti : Trit → Trit
  | .neg => .pos
  | .zero => .pos
  | .pos => .neg

/-- Negative ternary inversion of a trit (R172). -/
def tritNti : Trit → Trit
  | .neg => .pos
  | .zero => .neg
  | .pos => .neg

/-- The smaller of two trits (R173). -/
def tritMin : Trit → Trit → Trit
  | .neg, _ => .neg
  | _, .neg => .neg
  | .zero, _ => .zero
  | _, .zero => .zero
  | .pos, .pos => .pos

/-- The larger of two trits (R174). -/
def tritMax : Trit → Trit → Trit
  | .pos, _ => .pos
  | _, .pos => .pos
  | .zero, _ => .zero
  | _, .zero => .zero
  | .neg, .neg => .neg

/-- +1 for equal trits, -1 otherwise (R175). -/
def tritTeq (x y : Trit) : Trit :=
  if x = y then .pos else .neg

/-- The product of two trits (R176). -/
def tritTem : Trit → Trit → Trit
  | .zero, _ => .zero
  | _, .zero => .zero
  | .pos, .pos => .pos
  | .pos, .neg => .neg
  | .neg, .pos => .neg
  | .neg, .neg => .pos

/-- R170. -/
def execSti (a : Reg) (s : State) : Result :=
  done (s.set a (tritwise1 tritSti (s.get a)))

/-- R171. -/
def execPti (a : Reg) (s : State) : Result :=
  done (s.set a (tritwise1 tritPti (s.get a)))

/-- R172. -/
def execNti (a : Reg) (s : State) : Result :=
  done (s.set a (tritwise1 tritNti (s.get a)))

/-- R173. -/
def execMin (a b c : Reg) (s : State) : Result :=
  done (s.set c (tritwise2 tritMin (s.get a) (s.get b)))

/-- R174. -/
def execMax (a b c : Reg) (s : State) : Result :=
  done (s.set c (tritwise2 tritMax (s.get a) (s.get b)))

/-- R175. -/
def execTeq (a b c : Reg) (s : State) : Result :=
  done (s.set c (tritwise2 tritTeq (s.get a) (s.get b)))

/-- R176. -/
def execTem (a b c : Reg) (s : State) : Result :=
  done (s.set c (tritwise2 tritTem (s.get a) (s.get b)))

end Sys2Proof.Machine
end

