-- ==== Sys2Proof/Machine/Convert.lean ====
section
/-!
DEFINITION. The conversion instructions (44_conversion.md). None writes a flag, accesses memory or raises an exception (R280).
-/

namespace Sys2Proof.Machine

/-- The word whose trit `i` is bit `i` of the low 18 bits of `b` (R281). -/
def binaryCoded (b : Int) : Word :=
  ofTrits 18 (fun i => if (b % 262144).toNat.testBit i then .pos else .zero)

/-- `to_binary(v)` (R281): the low 18 bits of `v`, two's complement for a negative `v` by default. -/
def toBinary (p : Params) (v : Int) : Word :=
  if v < 0 then
    match p.binNegative with
    | .twosComplement => binaryCoded v
    | .anyBits => binaryCoded (Config.binNegative v)
  else
    binaryCoded v

/-- Whether none of the low `n` trits of a word is -1: binary-coded for `n` = 18. -/
def noNegTrit (w : Word) : Nat → Bool
  | 0 => true
  | n + 1 => noNegTrit w n && decide (w.trit n ≠ .neg)

/-- `sum over i in 0..n-1 of trit(w, i) * 2^i`. -/
def bitSum (w : Word) : Nat → Int
  | 0 => 0
  | n + 1 => bitSum w n + (w.trit n).toInt * ((2 ^ n : Nat) : Int)

/-- `to_ternary(w)` of a binary-coded word (R282). -/
def toTernary (w : Word) : Word :=
  toWord (bitSum w 18)

/-- The forward diode on a trit (R285). -/
def tritFdr : Trit → Trit
  | .neg => .zero
  | .zero => .zero
  | .pos => .pos

/-- The reverse diode on a trit (R286). -/
def tritRdr : Trit → Trit
  | .neg => .neg
  | .zero => .zero
  | .pos => .zero

/-- R283. -/
def execBin (a b : Reg) (s : State) : Result :=
  done (s.set b (toBinary s.params (s.get a).val))

/-- R284: a binary-coded word becomes the number its bits denote; for a word with a trit of -1 the result is a free value
(R282, U10, assumption log 10). -/
def execTri (a b : Reg) (s : State) : Result :=
  if noNegTrit (s.get a) 18 then
    done (s.set b (toTernary (s.get a)))
  else
    done (s.put b (Config.triUnspecified s.draws)).drew

/-- R285. -/
def execFdr (a b : Reg) (s : State) : Result :=
  done (s.set b (tritwise1 tritFdr (s.get a)))

/-- R286. -/
def execRdr (a b : Reg) (s : State) : Result :=
  done (s.set b (tritwise1 tritRdr (s.get a)))

end Sys2Proof.Machine
end

