-- ==== Sys2Proof/Machine/Io.lean ====
section
/-!
DEFINITION. The I/O instructions (45_io.md): reads answered by the environment and logged, writes logged unconverted (R291). They
read the Binary flag, write no flag, raise no exception and are not guarded by the Protect flag (R293).
-/

namespace Sys2Proof.Machine

/-- An I/O read into a register; a destination `rz` still reads and logs (R294). -/
def ioInput (kind : IoKind) (dst : Reg) (addr : Nonad) (s : State) : Result :=
  done ((s.ioRead addr kind).set dst (s.ioAnswer addr kind))

/-- R294. -/
def execInt (a : Reg) (imm : Nonad) (s : State) : Result :=
  ioInput .ternary a imm s

/-- R295. -/
def execInb (a : Reg) (imm : Nonad) (s : State) : Result :=
  ioInput .binary a imm s

/-- R296. -/
def execOut (a : Reg) (imm : Nonad) (s : State) : Result :=
  done (s.ioWrite imm .ternary (s.get a))

/-- R297. -/
def execOub (a : Reg) (imm : Nonad) (s : State) : Result :=
  done (s.ioWrite imm .binary (s.get a))

end Sys2Proof.Machine
end

