-- ==== Sys2Proof/Machine/MemoryOps.lean ====
section
/-!
DEFINITION. The memory instructions (42_memory_ops.md): loads, immediate loads, stores, moves, sets and the stack. None writes a
flag (R191). The only exception is `#OP` of the reserved `ldx` and `stx` (R192, R217).
-/

namespace Sys2Proof.Machine

/-! ## Shared operations -/

/-- A word load: `r[dst] <- MemRead(addr, 3)`. -/
def loadWord (dst : Reg) (addr : Addr) (s : State) : Result :=
  done (s.set dst (s.readWord addr))

/-- A hexad put into one part of a register, the other twelve trits unchanged. -/
def putHexad (dst : Reg) (p : HexPart) (h : Hexad) (s : State) : Result :=
  done (s.set dst ((s.get dst).setHexad p h))

/-- A hexad load: `r[dst] <- sethex(r[dst], p, MemRead(addr, 1))`. -/
def loadHexad (dst : Reg) (p : HexPart) (addr : Addr) (s : State) : Result :=
  putHexad dst p (s.readHexad addr) s

/-- A word store: `MemWrite(addr, 3, r[src])`. -/
def storeWord (src : Reg) (addr : Addr) (s : State) : Result :=
  done (s.writeWord addr (s.get src))

/-- A hexad store: one hexad of a register to one address. -/
def storeHexad (src : Reg) (p : HexPart) (addr : Addr) (s : State) : Result :=
  done (s.writeHexad addr ((s.get src).hexad p))

/-! ## Loads from an absolute address -/

/-- R193. -/
def execLdr (a : Reg) (imm : Addr) (s : State) : Result :=
  loadWord a (s.eaAbs imm) s

/-- R194. -/
def execLdl (a : Reg) (imm : Addr) (s : State) : Result :=
  loadHexad a .low (s.eaAbs imm) s

/-- R195. -/
def execLdm (a : Reg) (imm : Addr) (s : State) : Result :=
  loadHexad a .mid (s.eaAbs imm) s

/-- R196. -/
def execLdh (a : Reg) (imm : Addr) (s : State) : Result :=
  loadHexad a .high (s.eaAbs imm) s

/-! ## Immediate loads -/

/-- R197. -/
def execLdi (a : Reg) (imm : Hexad) (s : State) : Result :=
  done (s.put a imm.val)

/-- R198. -/
def execLil (a : Reg) (imm : Hexad) (s : State) : Result :=
  putHexad a .low imm s

/-- R199. -/
def execLim (a : Reg) (imm : Hexad) (s : State) : Result :=
  putHexad a .mid imm s

/-- R200. -/
def execLih (a : Reg) (imm : Hexad) (s : State) : Result :=
  putHexad a .high imm s

/-- R207: the destination is always `r0`. -/
def execLad (imm : Addr) (s : State) : Result :=
  done (s.put .zero imm.val)

/-! ## Register-indirect loads -/

/-- R201. -/
def execLda (a b : Reg) (s : State) : Result :=
  loadWord b (s.eaInd a) s

/-- R202. -/
def execLal (a b : Reg) (s : State) : Result :=
  loadHexad b .low (s.eaInd a) s

/-- R203. -/
def execLam (a b : Reg) (s : State) : Result :=
  loadHexad b .mid (s.eaInd a) s

/-- R204. -/
def execLah (a b : Reg) (s : State) : Result :=
  loadHexad b .high (s.eaInd a) s

/-! ## Indexed load and store -/

/-- R205: the word is written first and then the index moves, also when the destination is `rn`. -/
def execLdn (a : Reg) (imm : Hexad) (s : State) : Result :=
  done (s.set a (s.readWord (s.na imm))).stepIndex

/-- R216: the old `rn` is stored when the source is `rn`. -/
def execStn (a : Reg) (imm : Hexad) (s : State) : Result :=
  done (s.writeWord (s.na imm) (s.get a)).stepIndex

/-! ## Stores to an absolute address -/

/-- R208. -/
def execStr (a : Reg) (imm : Addr) (s : State) : Result :=
  storeWord a (s.eaAbs imm) s

/-- R209. -/
def execStl (a : Reg) (imm : Addr) (s : State) : Result :=
  storeHexad a .low (s.eaAbs imm) s

/-- R210. -/
def execStm (a : Reg) (imm : Addr) (s : State) : Result :=
  storeHexad a .mid (s.eaAbs imm) s

/-- R211. -/
def execSth (a : Reg) (imm : Addr) (s : State) : Result :=
  storeHexad a .high (s.eaAbs imm) s

/-! ## Register-indirect stores -/

/-- R212. -/
def execSta (a b : Reg) (s : State) : Result :=
  storeWord a (s.eaInd b) s

/-- R213. -/
def execSal (a b : Reg) (s : State) : Result :=
  storeHexad a .low (s.eaInd b) s

/-- R214. -/
def execSam (a b : Reg) (s : State) : Result :=
  storeHexad a .mid (s.eaInd b) s

/-- R215. -/
def execSah (a b : Reg) (s : State) : Result :=
  storeHexad a .high (s.eaInd b) s

/-! ## Reserved -/

/-- R108, R217: executing the reserved `ldx` raises `#OP`. -/
def execLdx (_rest : Bt 15) (s : State) : Result :=
  raise .undefinedOpcode s

/-- R108, R217: executing the reserved `stx` raises `#OP`. -/
def execStx (_rest : Bt 15) (s : State) : Result :=
  raise .undefinedOpcode s

/-! ## Register moves and sets -/

/-- R218. -/
def execMov (a b : Reg) (s : State) : Result :=
  done (s.set b (s.get a))

/-- R219: both values are read before either is written. -/
def execXch (a b : Reg) (s : State) : Result :=
  done ((s.set a (s.get b)).set b (s.get a))

/-- R220. -/
def execSrz (a : Reg) (s : State) : Result :=
  done (s.put a 0)

/-- R221: all trits +1. -/
def execSrp (a : Reg) (s : State) : Result :=
  done (s.put a (half 18))

/-- R222: all trits -1. -/
def execSrn (a : Reg) (s : State) : Result :=
  done (s.put a (-half 18))

/-! ## Stack -/

/-- R228: the value read is the one before the decrement, also for `rs`. -/
def execPsh (a : Reg) (s : State) : Result :=
  done (s.push (s.get a))

/-- R229: the popped word is written last, also to `rs`. -/
def execPop (a : Reg) (s : State) : Result :=
  done (s.popMove.set a s.popped)

end Sys2Proof.Machine
end

