-- ==== Sys2Proof/Machine/System.lean ====
section
/-!
DEFINITION. The system instructions (46_system.md): system call and return, breakpoint, no-operation, undefined, and access to
the system registers under the Protect flag.
-/

namespace Sys2Proof.Machine

/-- R300: IP goes to `rr`, then IP is the aligned entry of the system call table. -/
def execSys (imm : Hexad) (s : State) : Result :=
  done ((s.put .r s.ip.val).jump (s.readWord (s.callAddr imm)).val)

/-- R301. -/
def execSrt (s : State) : Result :=
  done (s.jump (s.get .r).val)

/-- R302: `#BK`, whatever the Trap flag holds. -/
def execBrk (s : State) : Result :=
  raise .breakpoint s

/-- R303. -/
def execNop (s : State) : Result :=
  done s

/-- R308. -/
def execUnd (_rest : Bt 15) (s : State) : Result :=
  raise .undefinedOpcode s

/-- R306: `#PV` under P = +1, else the system register goes to the user register. -/
def execLsr (k : SysReg) (a : Reg) (s : State) : Result :=
  if s.flag .p = .pos then
    raise .protection s
  else
    done (s.set a (s.sysRead k))

/-- R307: `#PV` under P = +1; `CR0` is written only under P = -1 and raises `#PV` under P = 0; every other register takes the
word. -/
def execSsr (a : Reg) (k : SysReg) (s : State) : Result :=
  if s.flag .p = .pos then
    raise .protection s
  else if k = .cr0 ∧ s.flag .p = .zero then
    raise .protection s
  else
    done (s.sysWrite k (s.get a))

end Sys2Proof.Machine
end

