-- ==== Sys2Proof/Machine/Dispatch.lean ====
section
/-!
DEFINITION. The dispatch: one arm for each constructor of `Instr`, each one direct call of that instruction's meaning.
-/

namespace Sys2Proof.Machine

def exec (i : Instr) (s : State) : Host.Outcome State Fault Refusal :=
  match i with
  | .nop => Sys2Proof.Machine.execNop s
  | .brk => Sys2Proof.Machine.execBrk s
  | .ret => Sys2Proof.Machine.execRet s
  | .srt => Sys2Proof.Machine.execSrt s
  | .brr a => Sys2Proof.Machine.execBrr a s
  | .caa a => Sys2Proof.Machine.execCaa a s
  | .tbX a b c f => Sys2Proof.Machine.execTbX a b c f s
  | .szX f => Sys2Proof.Machine.execSzX f s
  | .spX f => Sys2Proof.Machine.execSpX f s
  | .snX f => Sys2Proof.Machine.execSnX f s
  | .zfX f => Sys2Proof.Machine.execZfX f s
  | .pfX f => Sys2Proof.Machine.execPfX f s
  | .nfX f => Sys2Proof.Machine.execNfX f s
  | .lsr k a => Sys2Proof.Machine.execLsr k a s
  | .ssr a k => Sys2Proof.Machine.execSsr a k s
  | .psh a => Sys2Proof.Machine.execPsh a s
  | .pop a => Sys2Proof.Machine.execPop a s
  | .add a b c => Sys2Proof.Machine.execAdd a b c s
  | .adc a b c => Sys2Proof.Machine.execAdc a b c s
  | .sub a b c => Sys2Proof.Machine.execSub a b c s
  | .sbc a b c => Sys2Proof.Machine.execSbc a b c s
  | .mul a b c => Sys2Proof.Machine.execMul a b c s
  | .div a b c => Sys2Proof.Machine.execDiv a b c s
  | .cmp a b => Sys2Proof.Machine.execCmp a b s
  | .min a b c => Sys2Proof.Machine.execMin a b c s
  | .max a b c => Sys2Proof.Machine.execMax a b c s
  | .teq a b c => Sys2Proof.Machine.execTeq a b c s
  | .tem a b c => Sys2Proof.Machine.execTem a b c s
  | .sti a => Sys2Proof.Machine.execSti a s
  | .pti a => Sys2Proof.Machine.execPti a s
  | .nti a => Sys2Proof.Machine.execNti a s
  | .bin a b => Sys2Proof.Machine.execBin a b s
  | .tri a b => Sys2Proof.Machine.execTri a b s
  | .fdr a b => Sys2Proof.Machine.execFdr a b s
  | .rdr a b => Sys2Proof.Machine.execRdr a b s
  | .lda a b => Sys2Proof.Machine.execLda a b s
  | .lal a b => Sys2Proof.Machine.execLal a b s
  | .lam a b => Sys2Proof.Machine.execLam a b s
  | .lah a b => Sys2Proof.Machine.execLah a b s
  | .sta a b => Sys2Proof.Machine.execSta a b s
  | .sal a b => Sys2Proof.Machine.execSal a b s
  | .sam a b => Sys2Proof.Machine.execSam a b s
  | .sah a b => Sys2Proof.Machine.execSah a b s
  | .mov a b => Sys2Proof.Machine.execMov a b s
  | .xch a b => Sys2Proof.Machine.execXch a b s
  | .srz a => Sys2Proof.Machine.execSrz a s
  | .srp a => Sys2Proof.Machine.execSrp a s
  | .srn a => Sys2Proof.Machine.execSrn a s
  | .adi a b imm => Sys2Proof.Machine.execAdi a b imm s
  | .sbi a b imm => Sys2Proof.Machine.execSbi a b imm s
  | .mli a b imm => Sys2Proof.Machine.execMli a b imm s
  | .dvi a b imm => Sys2Proof.Machine.execDvi a b imm s
  | .cmi a imm => Sys2Proof.Machine.execCmi a imm s
  | .shl a imm => Sys2Proof.Machine.execShl a imm s
  | .shr a imm => Sys2Proof.Machine.execShr a imm s
  | .rol a imm => Sys2Proof.Machine.execRol a imm s
  | .ror a imm => Sys2Proof.Machine.execRor a imm s
  | .rcl a imm => Sys2Proof.Machine.execRcl a imm s
  | .rcr a imm => Sys2Proof.Machine.execRcr a imm s
  | .ldi a imm => Sys2Proof.Machine.execLdi a imm s
  | .lil a imm => Sys2Proof.Machine.execLil a imm s
  | .lim a imm => Sys2Proof.Machine.execLim a imm s
  | .lih a imm => Sys2Proof.Machine.execLih a imm s
  | .ldn a imm => Sys2Proof.Machine.execLdn a imm s
  | .stn a imm => Sys2Proof.Machine.execStn a imm s
  | .bri a imm => Sys2Proof.Machine.execBri a imm s
  | .brs imm => Sys2Proof.Machine.execBrs imm s
  | .sys imm => Sys2Proof.Machine.execSys imm s
  | .pad a imm => Sys2Proof.Machine.execPad a imm s
  | .psb a imm => Sys2Proof.Machine.execPsb a imm s
  | .pmu a imm => Sys2Proof.Machine.execPmu a imm s
  | .pdv a imm => Sys2Proof.Machine.execPdv a imm s
  | .int a imm => Sys2Proof.Machine.execInt a imm s
  | .inb a imm => Sys2Proof.Machine.execInb a imm s
  | .out a imm => Sys2Proof.Machine.execOut a imm s
  | .oub a imm => Sys2Proof.Machine.execOub a imm s
  | .ldr a imm => Sys2Proof.Machine.execLdr a imm s
  | .ldl a imm => Sys2Proof.Machine.execLdl a imm s
  | .ldm a imm => Sys2Proof.Machine.execLdm a imm s
  | .ldh a imm => Sys2Proof.Machine.execLdh a imm s
  | .str a imm => Sys2Proof.Machine.execStr a imm s
  | .stl a imm => Sys2Proof.Machine.execStl a imm s
  | .stm a imm => Sys2Proof.Machine.execStm a imm s
  | .sth a imm => Sys2Proof.Machine.execSth a imm s
  | .lad imm => Sys2Proof.Machine.execLad imm s
  | .bra imm => Sys2Proof.Machine.execBra imm s
  | .brl imm => Sys2Proof.Machine.execBrl imm s
  | .cal imm => Sys2Proof.Machine.execCal imm s
  | .car imm => Sys2Proof.Machine.execCar imm s
  | .bzX f imm => Sys2Proof.Machine.execBzX f imm s
  | .bpX f imm => Sys2Proof.Machine.execBpX f imm s
  | .bnX f imm => Sys2Proof.Machine.execBnX f imm s
  | .ldx rest => Sys2Proof.Machine.execLdx rest s
  | .stx rest => Sys2Proof.Machine.execStx rest s
  | .und rest => Sys2Proof.Machine.execUnd rest s

end Sys2Proof.Machine
end

