-- ==== Sys2Proof/Machine/Step.lean ====
section
/-!
DEFINITION. The step (10_state.md R27), and placing an instruction word where the next step fetches.
-/

namespace Sys2Proof.Machine

/-- One step of the CPU (R27): an enabled pending interrupt, else an armed breakpoint, else fetch, advance IP, decode, and
execute; a word that spells no instruction raises `#OP` with IP already advanced (R106). The word is read under the parameter
`ENCODING` (R91), and an instruction that meets the parameter `INVALID_FLAG` raises `#IF` (R336). -/
def step (s : State) : Host.Outcome State Fault Refusal :=
  if s.interruptReady then
    done s.takeInterrupt
  else if s.breakpointHit then
    done s.takeBreakpoint
  else
    match s.decoded with
    | .ok i => checkFlags i s.advance (exec i s.advance)
    | .error _ => raise .undefinedOpcode s.advance

/-- The state with the instruction of an opcode-table number stored at IP. What would end the next step before its fetch is
removed: the pending interrupts when the next step would take one, and the Trap flag's +1 when a debug register matches; and the
word is read as SPEC-ENC-1. -/
def State.withFetchWord (s : State) (nbits w : Nat) : State :=
  let s1 : State := if s.interruptReady then { s with pendingInts := [] } else s
  let s2 : State := if s1.breakpointHit then s1.setFlag .t .zero else s1
  let s3 : State := { s2 with params := { s2.params with encoding := .specEnc1 } }
  s3.writeWord s3.ip (tableWord nbits w)

end Sys2Proof.Machine
end

