-- ==== Sys2Proof/Machine/Assembler.lean ====
section
/-!
DEFINITION. What the spec gives of the assembler: synonyms and short forms (30_encoding.md R111, R112) as the instructions they
stand for, base-27 numerals (R4), the text of an instruction (R109), and the eight pseudo-instructions (47_assembler_pseudo.md
R320 to R327), which lay out the memory image a launch loads. No step of the machine uses any of it.
-/

namespace Sys2Proof.Machine

/-! ## Other spellings of an instruction -/

/-- The accepted synonyms (R112). -/
inductive Synonym where
  | inc (a : Reg)
  | dec (a : Reg)
  | neg (a : Reg)
  | not (a : Reg)
  | and (a b c : Reg)
  | ort (a b c : Reg)
  | clr (a : Reg)
deriving DecidableEq, Repr

/-- The instruction a synonym assembles to (R112, R149, R177, R230). -/
def Synonym.expand : Synonym → Instr
  | .inc a => .pad a (Bt.ofInt 9 1)
  | .dec a => .psb a (Bt.ofInt 9 1)
  | .neg a => .sti a
  | .not a => .sti a
  | .and a b c => .min a b c
  | .ort a b c => .max a b c
  | .clr a => .srz a

/-- The instructions with short forms of one and two registers (R111). -/
inductive TripleOp where
  | add | adc | sub | sbc | mul | div
deriving DecidableEq, Repr

/-- The full form with three registers. -/
def TripleOp.full (op : TripleOp) (a b c : Reg) : Instr :=
  match op with
  | .add => .add a b c
  | .adc => .adc a b c
  | .sub => .sub a b c
  | .sbc => .sbc a b c
  | .mul => .mul a b c
  | .div => .div a b c

/-- `op rA, rB` means `op rA, rB, rB` (R111). -/
def TripleOp.two (op : TripleOp) (a b : Reg) : Instr :=
  op.full a b b

/-- `op rA` means `op rA, rA, rA` (R111). -/
def TripleOp.one (op : TripleOp) (a : Reg) : Instr :=
  op.full a a a

/-- The hexad-immediate instructions with a short form (R111). -/
inductive ImmOp where
  | adi | sbi | mli | dvi
deriving DecidableEq, Repr

/-- The full form with two registers. -/
def ImmOp.full (op : ImmOp) (a b : Reg) (imm : Hexad) : Instr :=
  match op with
  | .adi => .adi a b imm
  | .sbi => .sbi a b imm
  | .mli => .mli a b imm
  | .dvi => .dvi a b imm

/-- `op rA, 123` means `op rA, rA, 123` (R111). -/
def ImmOp.one (op : ImmOp) (a : Reg) (imm : Hexad) : Instr :=
  op.full a a imm

/-- The value of a base-27 numeral, its digits from the highest down (R4). -/
def numeral (ds : List Digit) : Int :=
  ds.foldl (fun v d => 27 * v + d.val) 0

end Sys2Proof.Machine

namespace Sys2Proof

/-! ## The text of an instruction (30_encoding.md R109) -/

/-- A base-27 digit as it is written (R4). -/
def Digit.text : Digit → String
  | .z => "z" | .y => "y" | .x => "x" | .w => "w" | .v => "v" | .u => "u" | .t => "t" | .s => "s" | .r => "r"
  | .q => "q" | .p => "p" | .o => "o" | .n => "n" | .zero => "0" | .A => "A" | .B => "B" | .C => "C" | .D => "D"
  | .E => "E" | .F => "F" | .G => "G" | .H => "H" | .I => "I" | .J => "J" | .K => "K" | .L => "L" | .M => "M"

/-- A user register: `r` and its digit (R109). -/
def Reg.text (a : Reg) : String :=
  "r" ++ Digit.text a

/-- A system register (R109). -/
def SysReg.text : SysReg → String
  | .cr0 => "CR0" | .cr1 => "CR1" | .cr2 => "CR2" | .cr3 => "CR3" | .cr4 => "CR4"
  | .dr1 => "DR1" | .dr2 => "DR2" | .dr3 => "DR3" | .dr4 => "DR4"

/-- The letter of a flag, the last of the mnemonic (R109, R248). -/
def Flag.text : Flag → String
  | .c => "c" | .s => "s" | .d => "d" | .a => "a" | .b => "b" | .t => "t" | .i => "i" | .p => "p"

/-- A number without prefix is decimal (R109). -/
def Bt.decimal {n : Nat} (w : Bt n) : String :=
  toString w.val

/-- A number with `%` is base 27 (R109), one digit for three trits, the highest first. -/
def Bt.base27 {n : Nat} (w : Bt n) : String :=
  "%" ++ (List.range (n / 3)).foldl (fun s k => Digit.text (Digit.ofInt (shiftOut w.val (3 * k))) ++ s) ""

/-- A mnemonic and its operands, separated by commas (R109). -/
def line (mnemonic : String) (ops : List String) : String :=
  match ops with
  | [] => mnemonic
  | o :: os => mnemonic ++ " " ++ os.foldl (fun s x => s ++ ", " ++ x) o

/-- One instruction as the source's Format line writes it, sources first and destination last (R109, R113). DEDUCED
(assumption log 29): `ldx` and `stx`, to which the source gives no Format line (R108), are written as the bare mnemonic of the
opcode table; the trits of `ldx`, `stx` and `und` that R107 and R108 do not examine are not written. -/
def Instr.text : Instr → String
  | .nop => line "nop" []
  | .brk => line "brk" []
  | .ret => line "ret" []
  | .srt => line "srt" []
  | .brr a => line "brr" [Reg.text a]
  | .caa a => line "caa" [Reg.text a]
  | .tbX a b c f => line ("tb" ++ f.text) [Reg.text a, Reg.text b, Reg.text c]
  | .szX f => line ("sz" ++ f.text) []
  | .spX f => line ("sp" ++ f.text) []
  | .snX f => line ("sn" ++ f.text) []
  | .zfX f => line ("zf" ++ f.text) []
  | .pfX f => line ("pf" ++ f.text) []
  | .nfX f => line ("nf" ++ f.text) []
  | .lsr k a => line "lsr" [k.text, Reg.text a]
  | .ssr a k => line "ssr" [Reg.text a, k.text]
  | .psh a => line "psh" [Reg.text a]
  | .pop a => line "pop" [Reg.text a]
  | .add a b c => line "add" [Reg.text a, Reg.text b, Reg.text c]
  | .adc a b c => line "adc" [Reg.text a, Reg.text b, Reg.text c]
  | .sub a b c => line "sub" [Reg.text a, Reg.text b, Reg.text c]
  | .sbc a b c => line "sbc" [Reg.text a, Reg.text b, Reg.text c]
  | .mul a b c => line "mul" [Reg.text a, Reg.text b, Reg.text c]
  | .div a b c => line "div" [Reg.text a, Reg.text b, Reg.text c]
  | .cmp a b => line "cmp" [Reg.text a, Reg.text b]
  | .min a b c => line "min" [Reg.text a, Reg.text b, Reg.text c]
  | .max a b c => line "max" [Reg.text a, Reg.text b, Reg.text c]
  | .teq a b c => line "teq" [Reg.text a, Reg.text b, Reg.text c]
  | .tem a b c => line "tem" [Reg.text a, Reg.text b, Reg.text c]
  | .sti a => line "sti" [Reg.text a]
  | .pti a => line "pti" [Reg.text a]
  | .nti a => line "nti" [Reg.text a]
  | .bin a b => line "bin" [Reg.text a, Reg.text b]
  | .tri a b => line "tri" [Reg.text a, Reg.text b]
  | .fdr a b => line "fdr" [Reg.text a, Reg.text b]
  | .rdr a b => line "rdr" [Reg.text a, Reg.text b]
  | .lda a b => line "lda" [Reg.text a, Reg.text b]
  | .lal a b => line "lal" [Reg.text a, Reg.text b]
  | .lam a b => line "lam" [Reg.text a, Reg.text b]
  | .lah a b => line "lah" [Reg.text a, Reg.text b]
  | .sta a b => line "sta" [Reg.text a, Reg.text b]
  | .sal a b => line "sal" [Reg.text a, Reg.text b]
  | .sam a b => line "sam" [Reg.text a, Reg.text b]
  | .sah a b => line "sah" [Reg.text a, Reg.text b]
  | .mov a b => line "mov" [Reg.text a, Reg.text b]
  | .xch a b => line "xch" [Reg.text a, Reg.text b]
  | .srz a => line "srz" [Reg.text a]
  | .srp a => line "srp" [Reg.text a]
  | .srn a => line "srn" [Reg.text a]
  | .adi a b imm => line "adi" [Reg.text a, Reg.text b, imm.decimal]
  | .sbi a b imm => line "sbi" [Reg.text a, Reg.text b, imm.decimal]
  | .mli a b imm => line "mli" [Reg.text a, Reg.text b, imm.decimal]
  | .dvi a b imm => line "dvi" [Reg.text a, Reg.text b, imm.decimal]
  | .cmi a imm => line "cmi" [Reg.text a, imm.decimal]
  | .shl a imm => line "shl" [Reg.text a, imm.decimal]
  | .shr a imm => line "shr" [Reg.text a, imm.decimal]
  | .rol a imm => line "rol" [Reg.text a, imm.decimal]
  | .ror a imm => line "ror" [Reg.text a, imm.decimal]
  | .rcl a imm => line "rcl" [Reg.text a, imm.decimal]
  | .rcr a imm => line "rcr" [Reg.text a, imm.decimal]
  | .ldi a imm => line "ldi" [imm.base27, Reg.text a]
  | .lil a imm => line "lil" [imm.base27, Reg.text a]
  | .lim a imm => line "lim" [imm.base27, Reg.text a]
  | .lih a imm => line "lih" [imm.base27, Reg.text a]
  | .ldn a imm => line "ldn" [imm.base27, Reg.text a]
  | .stn a imm => line "stn" [Reg.text a, imm.base27]
  | .bri a imm => line "bri" [Reg.text a, imm.base27]
  | .brs imm => line "brs" [imm.base27]
  | .sys imm => line "sys" ["#" ++ imm.decimal]
  | .pad a imm => line "pad" [Reg.text a, imm.decimal]
  | .psb a imm => line "psb" [Reg.text a, imm.decimal]
  | .pmu a imm => line "pmu" [Reg.text a, imm.decimal]
  | .pdv a imm => line "pdv" [Reg.text a, imm.decimal]
  | .int a imm => line "int" ["@" ++ imm.base27, Reg.text a]
  | .inb a imm => line "inb" ["@" ++ imm.base27, Reg.text a]
  | .out a imm => line "out" [Reg.text a, "@" ++ imm.base27]
  | .oub a imm => line "oub" [Reg.text a, "@" ++ imm.base27]
  | .ldr a imm => line "ldr" [imm.base27, Reg.text a]
  | .ldl a imm => line "ldl" [imm.base27, Reg.text a]
  | .ldm a imm => line "ldm" [imm.base27, Reg.text a]
  | .ldh a imm => line "ldh" [imm.base27, Reg.text a]
  | .str a imm => line "str" [Reg.text a, imm.base27]
  | .stl a imm => line "stl" [Reg.text a, imm.base27]
  | .stm a imm => line "stm" [Reg.text a, imm.base27]
  | .sth a imm => line "sth" [Reg.text a, imm.base27]
  | .lad imm => line "lad" [imm.base27]
  | .bra imm => line "bra" [imm.base27]
  | .brl imm => line "brl" [imm.base27]
  | .cal imm => line "cal" [imm.base27]
  | .car imm => line "car" [imm.base27]
  | .bzX f imm => line ("bz" ++ f.text) [imm.base27]
  | .bpX f imm => line ("bp" ++ f.text) [imm.base27]
  | .bnX f imm => line ("bn" ++ f.text) [imm.base27]
  | .ldx _ => line "ldx" []
  | .stx _ => line "stx" []
  | .und _ => line "und" []

/-- The instruction with its immediate replaced by a value in the immediate's range (R92); none for an instruction without
an immediate. -/
def Instr.withImm (i : Instr) (v : Int) : Option Instr :=
  match i with
  | .nop | .brk | .ret | .srt | .brr _ | .caa _ | .tbX _ _ _ _ | .szX _ | .spX _ | .snX _ | .zfX _ | .pfX _ | .nfX _
  | .lsr _ _ | .ssr _ _ | .psh _ | .pop _ | .add _ _ _ | .adc _ _ _ | .sub _ _ _ | .sbc _ _ _ | .mul _ _ _
  | .div _ _ _ | .cmp _ _ | .min _ _ _ | .max _ _ _ | .teq _ _ _ | .tem _ _ _ | .sti _ | .pti _ | .nti _ | .bin _ _
  | .tri _ _ | .fdr _ _ | .rdr _ _ | .lda _ _ | .lal _ _ | .lam _ _ | .lah _ _ | .sta _ _ | .sal _ _ | .sam _ _
  | .sah _ _ | .mov _ _ | .xch _ _ | .srz _ | .srp _ | .srn _ | .ldx _ | .stx _ | .und _ => none
  | .adi a b _ => (Bt.check 6 v).map (.adi a b)
  | .sbi a b _ => (Bt.check 6 v).map (.sbi a b)
  | .mli a b _ => (Bt.check 6 v).map (.mli a b)
  | .dvi a b _ => (Bt.check 6 v).map (.dvi a b)
  | .cmi a _ => (Bt.check 6 v).map (.cmi a)
  | .shl a _ => (Bt.check 6 v).map (.shl a)
  | .shr a _ => (Bt.check 6 v).map (.shr a)
  | .rol a _ => (Bt.check 6 v).map (.rol a)
  | .ror a _ => (Bt.check 6 v).map (.ror a)
  | .rcl a _ => (Bt.check 6 v).map (.rcl a)
  | .rcr a _ => (Bt.check 6 v).map (.rcr a)
  | .ldi a _ => (Bt.check 6 v).map (.ldi a)
  | .lil a _ => (Bt.check 6 v).map (.lil a)
  | .lim a _ => (Bt.check 6 v).map (.lim a)
  | .lih a _ => (Bt.check 6 v).map (.lih a)
  | .ldn a _ => (Bt.check 6 v).map (.ldn a)
  | .stn a _ => (Bt.check 6 v).map (.stn a)
  | .bri a _ => (Bt.check 6 v).map (.bri a)
  | .brs _ => (Bt.check 6 v).map .brs
  | .sys _ => (Bt.check 6 v).map .sys
  | .pad a _ => (Bt.check 9 v).map (.pad a)
  | .psb a _ => (Bt.check 9 v).map (.psb a)
  | .pmu a _ => (Bt.check 9 v).map (.pmu a)
  | .pdv a _ => (Bt.check 9 v).map (.pdv a)
  | .int a _ => (Bt.check 9 v).map (.int a)
  | .inb a _ => (Bt.check 9 v).map (.inb a)
  | .out a _ => (Bt.check 9 v).map (.out a)
  | .oub a _ => (Bt.check 9 v).map (.oub a)
  | .ldr a _ => (Bt.check 12 v).map (.ldr a)
  | .ldl a _ => (Bt.check 12 v).map (.ldl a)
  | .ldm a _ => (Bt.check 12 v).map (.ldm a)
  | .ldh a _ => (Bt.check 12 v).map (.ldh a)
  | .str a _ => (Bt.check 12 v).map (.str a)
  | .stl a _ => (Bt.check 12 v).map (.stl a)
  | .stm a _ => (Bt.check 12 v).map (.stm a)
  | .sth a _ => (Bt.check 12 v).map (.sth a)
  | .lad _ => (Bt.check 12 v).map .lad
  | .bra _ => (Bt.check 12 v).map .bra
  | .brl _ => (Bt.check 12 v).map .brl
  | .cal _ => (Bt.check 12 v).map .cal
  | .car _ => (Bt.check 12 v).map .car
  | .bzX f _ => (Bt.check 12 v).map (.bzX f)
  | .bpX f _ => (Bt.check 12 v).map (.bpX f)
  | .bnX f _ => (Bt.check 12 v).map (.bnX f)

end Sys2Proof

namespace Sys2Proof.Machine

/-! ## Numeric operands -/

/-- A numeric operand: a number, or an identifier that an `eq` defines (R321, R326). -/
inductive AsmOperand where
  | lit (v : Int)
  | name (x : String)
deriving DecidableEq, Repr

/-- The assembler's state: current location and symbolic constants (R321), the image laid out so far, and the parameter
`ENCODING` it writes instructions under (R91). -/
structure Asm where
  encoding : Encoding
  loc : Addr
  consts : List (String × Int)
  image : Memory
deriving DecidableEq, Repr

/-- The value a symbolic constant has, the latest definition first (R326). -/
def Asm.lookup (s : Asm) (name : String) : Option Int :=
  (s.consts.find? (fun c => decide (c.1 = name))).map (fun c => c.2)

/-- The value of a numeric operand: a constant's value is substituted for its identifier (R326). -/
def Asm.value (s : Asm) : AsmOperand → Option Int
  | .lit v => some v
  | .name x => s.lookup x

/-- An operand as a number of `n` trits, refused outside their range (R322). -/
def Asm.field (s : Asm) (n : Nat) (x : AsmOperand) : Option (Bt n) :=
  (s.value x).bind (Bt.check n)

/-- A list of operands as numbers of `n` trits (R322). -/
def Asm.fields (s : Asm) (n : Nat) : List AsmOperand → Option (List (Bt n))
  | [] => some []
  | x :: xs => (s.field n x).bind (fun w => (s.fields n xs).map (fun ws => w :: ws))

/-- A raw integer as a byte, refused outside 0..255 (R323). -/
def byteCheck (v : Int) : Option (Fin 256) :=
  if h : 0 ≤ v ∧ v ≤ 255 then some ⟨v.toNat, by omega⟩ else none

/-- A raw integer as a number of hexads or words (R325). -/
def countCheck (v : Int) : Option Nat :=
  if 0 ≤ v then some v.toNat else none

/-! ## The pseudo-instructions -/

/-- The eight pseudo-instructions (R320). -/
inductive Directive where
  /-- hexads inserted as they are (R322) -/
  | dh (ns : List AsmOperand)
  /-- words inserted, each low, middle and high hexad (R322) -/
  | dw (ns : List AsmOperand)
  /-- a byte coded in the lowest eight trits of a word (R323) -/
  | db (n : AsmOperand)
  /-- a string, the ASCII code of each character in a hexad (R324) -/
  | ds (codes : List (Fin 128))
  /-- hexads of 0 (R325) -/
  | zh (n : AsmOperand)
  /-- words of 0 (R325) -/
  | zw (n : AsmOperand)
  /-- a symbolic constant (R326) -/
  | eq (name : String) (v : AsmOperand)
  /-- the current location changed (R327) -/
  | ad (a : AsmOperand)
deriving DecidableEq, Repr

/-- One hexad placed at the current location, which moves past it (R321). -/
def Asm.emit (s : Asm) (h : Hexad) : Asm :=
  { s with image := s.image.write s.loc h, loc := Bt.plus s.loc 1 }

/-- Hexads placed one after another (R321). -/
def Asm.emits (s : Asm) (hs : List Hexad) : Asm :=
  hs.foldl Asm.emit s

/-- The three hexads of a word in the order of memory (R61). -/
def wordHexads (w : Word) : List Hexad :=
  [w.hexad .low, w.hexad .mid, w.hexad .high]

/-- The word of `db b`: trit `i` is -1 where bit `i` of `b` is set and 0 elsewhere (R323). -/
def byteWord (b : Fin 256) : Word :=
  ofTrits 18 (fun i => if b.val.testBit i then .neg else .zero)

/-- The hexads a data directive inserts, where its operands have values in their ranges; the state directives insert none
(R322 to R327). -/
def Asm.inserted (s : Asm) : Directive → Option (List Hexad)
  | .dh ns => s.fields 6 ns
  | .dw ns => (s.fields 18 ns).map (fun ws => ws.flatMap wordHexads)
  | .db n => ((s.value n).bind byteCheck).map (fun b => wordHexads (byteWord b))
  | .ds codes => some (codes.map (fun c => Bt.ofInt 6 (c.val : Int)))
  | .zh n => ((s.value n).bind countCheck).map (fun k => List.replicate k (Bt.ofInt 6 0))
  | .zw n => ((s.value n).bind countCheck).map (fun k => List.replicate (3 * k) (Bt.ofInt 6 0))
  | .eq _ _ | .ad _ => some []

/-- The assembler's state after a pseudo-instruction (R321 to R327), none where an operand has no value or one outside its
range (assumption log 24). -/
def Asm.directive (s : Asm) (d : Directive) : Option Asm :=
  match d with
  | .eq name v => (s.value v).map (fun k => { s with consts := (name, k) :: s.consts })
  | .ad a => (s.field 12 a).map (fun x => { s with loc := x })
  | .dh _ | .dw _ | .db _ | .ds _ | .zh _ | .zw _ => (s.inserted d).map s.emits

/-! ## Instructions and programs -/

/-- An instruction's word placed at the current location, which moves past it (R321), `und` as `%z00000` (R107); none where the
`ENCODING` gives the instruction no word. -/
def Asm.instr (s : Asm) (i : Instr) : Option Asm :=
  (s.encoding.encode i).map (fun w => s.emits (wordHexads w))

/-- A line of a program: a pseudo-instruction, an instruction, or an instruction with an identifier in the place of its
immediate, whatever immediate it is written with (R326). -/
inductive Line where
  | directive (d : Directive)
  | instr (i : Instr)
  | instrOf (i : Instr) (name : String)
deriving DecidableEq, Repr

/-- The assembler's state after a line (R321, R326). -/
def Asm.line (s : Asm) : Line → Option Asm
  | .directive d => s.directive d
  | .instr i => s.instr i
  | .instrOf i x => ((s.lookup x).bind i.withImm).bind s.instr

/-- The assembler's state after lines in order (R321). -/
def Asm.lines (s : Asm) : List Line → Option Asm
  | [] => some s
  | l :: ls => (s.line l).bind (fun t => t.lines ls)

/-- What the gathering of constants takes from a line: the constant an `eq` defines, when its operand has a value and the name
has none yet (R326, assumption log 24). -/
def Asm.define (s : Asm) (l : Line) : Asm :=
  match l with
  | .directive (.eq name v) =>
    match s.lookup name, s.value v with
    | none, some k => { s with consts := (name, k) :: s.consts }
    | none, none | some _, _ => s
  | .directive (.dh _) | .directive (.dw _) | .directive (.db _) | .directive (.ds _) | .directive (.zh _)
  | .directive (.zw _) | .directive (.ad _) | .instr _ | .instrOf _ _ => s

/-- The constants after `n` passes over the lines. -/
def Asm.passes (s : Asm) (ls : List Line) : Nat → Asm
  | 0 => s
  | n + 1 => (ls.foldl Asm.define s).passes ls n

/-- The constants of a whole program, in whatever order its lines define them: a pass that changes anything gives one more
name its value, so as many passes as lines are enough. -/
def Asm.gather (s : Asm) (ls : List Line) : Asm :=
  s.passes ls ls.length

/-- A whole program assembled. The constants are gathered before the first line, since a value is substituted for its identifier
at any point of the assembly, before its `eq` too and in the operand of another `eq` (R326). -/
def Asm.assemble (s : Asm) (ls : List Line) : Option Asm :=
  (s.gather ls).lines ls

/-- A launch: the machine with an image as its memory (`INITIAL_MEMORY` of R49 and R372). -/
def State.launch (s : State) (a : Asm) : State :=
  { s with mem := a.image }

end Sys2Proof.Machine
end

