-- ==== Sys2Proof/Safety.lean ====
section
/-!
DEFINITION. The terms the statements use: what holds in every state a run reaches, how a written register, a wrapped value, an
aligned address and a stored word read, what each instruction may write at all, and what the assembler lays down.
-/

namespace Sys2Proof.Machine

/-! ## The invariant of every run -/

/-- The lowest trit of an address is -1: it is the start of an instruction word (R26). -/
abbrev Aligned (a : Addr) : Prop :=
  a.trit 0 = .neg

/-- The numbers of the pending external interrupts stay clear of the five exceptions (R341). -/
abbrev State.pendingLegal (s : State) : Prop :=
  ∀ n ∈ s.pendingInts, n < 0 ∨ 5 ≤ n

/-- The invariant of every run: IP is aligned (R26), the memory is in its canonical form, and the pending interrupts are
legal. -/
abbrev State.Inv (s : State) : Prop :=
  Aligned s.ip ∧ s.mem.wf ∧ s.pendingLegal

/-! ## Results -/

/-- `w` is `bt_n(v)` by the words of R5: it is congruent to `v` modulo 3^n, and its type keeps it in range. -/
abbrev WrapOf (n : Nat) (v : Int) (w : Bt n) : Prop :=
  ∃ k : Int, v = w.val + (3 : Int) ^ n * k

/-- The register reads as the value written to it; `rz` discards the write and reads 0 (R22). -/
abbrev Wrote (t : State) (reg : Reg) (v : Word) : Prop :=
  (reg ≠ .z → t.get reg = v) ∧ (t.get .z).val = 0

/-- `a` is the start of the instruction word that contains address `v` reduced to 12 trits (R8, R240). -/
abbrev AlignOf (v : Int) (a : Addr) : Prop :=
  Aligned a ∧ ∃ j k : Int, 0 ≤ j ∧ j ≤ 2 ∧ v = a.val + j + (3 : Int) ^ 12 * k

/-- The three addresses of the word at `a` (R62). -/
abbrev wordAddrs (a : Addr) : List Addr :=
  [a, Bt.plus a 1, Bt.plus a 2]

/-- The word `v` stands little-endian at `a`, and every hexad outside it reads as in `s` (R61, R63). -/
abbrev StoredWord (s t : State) (a : Addr) (v : Word) : Prop :=
  t.readHexad a = v.hexad .low ∧ t.readHexad (Bt.plus a 1) = v.hexad .mid ∧ t.readHexad (Bt.plus a 2) = v.hexad .high ∧
    ∀ x, x ∉ wordAddrs a → t.readHexad x = s.readHexad x

/-- One hexad `h` stands at `a`, and every other reads as in `s` (R63). -/
abbrev StoredHexad (s t : State) (a : Addr) (h : Hexad) : Prop :=
  t.readHexad a = h ∧ ∀ x, x ≠ a → t.readHexad x = s.readHexad x

/-- The word spells the instruction: it decodes to the instruction, and the encoder gives it back. -/
abbrev Spells (w : Word) (i : Instr) : Prop :=
  decode w = .ok i ∧ encode i = w

/-! ## What stays -/

/-- Every user register outside the list reads as before. -/
abbrev OnlyRegs (s t : State) (l : List Reg) : Prop :=
  ∀ rg, rg ∉ l → t.get rg = s.get rg

/-- Every trit of `CR1`, reserved ones included, but those of the listed flags is as before. -/
abbrev OnlyFlags (s t : State) (l : List Flag) : Prop :=
  ∀ k : Nat, (∀ f ∈ l, (k : Int) ≠ f.sel) → t.cr1.tritAt k = s.cr1.tritAt k

/-- The system registers beside IP and `CR1` are as before. -/
abbrev SameSys (s t : State) : Prop :=
  t.cr2 = s.cr2 ∧ t.cr3 = s.cr3 ∧ t.cr4 = s.cr4 ∧ t.dr1 = s.dr1 ∧ t.dr2 = s.dr2 ∧ t.dr3 = s.dr3 ∧ t.dr4 = s.dr4

/-- Every hexad of memory reads as before. -/
abbrev SameMem (s t : State) : Prop :=
  ∀ x, t.readHexad x = s.readHexad x

/-- The I/O space has seen nothing, and what the environment holds is as before. -/
abbrev SameWorld (s t : State) : Prop :=
  t.ioLog = s.ioLog ∧ t.ioAnswers = s.ioAnswers ∧ t.pendingInts = s.pendingInts ∧ t.params = s.params

/-- Beside IP and memory nothing changes but the listed registers and flags. -/
abbrev Keeps (s t : State) (regs : List Reg) (flags : List Flag) : Prop :=
  OnlyRegs s t regs ∧ OnlyFlags s t flags ∧ SameSys s t ∧ SameWorld s t

/-- Nothing changes but the listed registers and flags: IP still addresses the following instruction, and memory reads as
before. -/
abbrev KeepsAll (s t : State) (regs : List Reg) (flags : List Flag) : Prop :=
  Keeps s t regs flags ∧ t.ip = s.ip ∧ SameMem s t

/-! ## Results of a family -/

/-- The exact result `e` has been reduced to a word and written to `dst`; Carry and Sign hold what R130 gives them, and nothing
else has changed. -/
abbrev SumInto (s t : State) (e : Int) (dst : Reg) : Prop :=
  ∃ w : Word, e = (t.flag .c).toInt * 3 ^ 18 + w.val ∧ (t.flag .s).toInt = w.val.sign ∧ Wrote t dst w ∧
    KeepsAll s t [dst] [.c, .s]

/-- The exact product `p` has been split in two words (R139), the low one in `dst` and the high one in `ro`; Sign is the sign of
`p` (R141), and nothing else but Carry has changed. -/
abbrev ProductInto (s t : State) (p : Int) (dst : Reg) : Prop :=
  ∃ lo hi : Word, p = hi.val * 3 ^ 18 + lo.val ∧ Wrote t dst lo ∧ t.get .o = hi ∧ (t.flag .s).toInt = p.sign ∧
    KeepsAll s t [dst, .o] [.c, .s]

/-- The quotient and the remainder of `N` by `d` have been written (R144), the remainder last; Carry and Sign hold what R145
gives them, and nothing else has changed. -/
abbrev QuotientInto (s t : State) (N d : Int) (dst : Reg) : Prop :=
  ∃ (q : Int) (w m : Word), N = q * d + m.val ∧ m.val.natAbs < d.natAbs ∧
    (s.params.divMod = .truncate → q = N.sign * d.sign * ((N.natAbs / d.natAbs : Nat) : Int)) ∧
    WrapOf 18 q w ∧ (dst ≠ .u → Wrote t dst w) ∧ t.get .u = m ∧
    (t.flag .c).toInt = (if q.natAbs ≤ 193710244 then 0 else q.sign) ∧ (t.flag .s).toInt = w.val.sign ∧
    KeepsAll s t [dst, .u] [.c, .s]

/-- The 19-trit ring of R168: the trits of the word at 0 to 17, the Carry at 18. -/
abbrev ringTrit (w : Word) (c : Trit) (i : Nat) : Trit :=
  if i = 18 then c else w.trit i

/-- `EA(v)` of R190. -/
abbrev EffectiveOf (s : State) (v : Int) (a : Addr) : Prop :=
  WrapOf 12 (if s.flag .a = .pos then v + (s.get .p).val else v) a

/-- `NA(v)` of R206; under the switch `LDN_RP_TWICE` an Absolute flag of +1 adds `rp` again. -/
abbrev IndexedOf (s : State) (v : Int) (a : Addr) : Prop :=
  WrapOf 12 (v + (s.get .p).val + (s.get .n).val +
    if s.params.ldnRpTwice = true ∧ s.flag .a = .pos then (s.get .p).val else 0) a

/-- One hexad of a register replaced, the other two kept (`sethex` of 42_memory_ops.md). -/
abbrev PutHexad (s t : State) (dst : Reg) (p : HexPart) (h : Hexad) : Prop :=
  ∃ w : Word, w.hexad p = h ∧ (∀ q, q ≠ p → w.hexad q = (s.get dst).hexad q) ∧ Wrote t dst w ∧ KeepsAll s t [dst] []

/-- IP is the aligned target `v`, and nothing else has changed. -/
abbrev JumpedTo (s t : State) (v : Int) : Prop :=
  AlignOf v t.ip ∧ Keeps s t [] [] ∧ SameMem s t

/-- `Push(v)` of R228: the word stands where `rs` pointed, `rs` is 3 lower, and nothing else but IP has changed. -/
abbrev Pushed (s t : State) (v : Word) : Prop :=
  WrapOf 12 (s.get .s).val s.pushAddr ∧ StoredWord s t s.pushAddr v ∧ WrapOf 18 ((s.get .s).val - 3) (t.get .s) ∧
    Keeps s t [.s] []

/-- Where a pop reads: at `rs` + 3, or at `rs` under the literal `POP_ORDER` (R229). -/
abbrev PopFrom (s : State) (a : Addr) : Prop :=
  WrapOf 12 (if s.params.popOrder = .before then (s.get .s).val + 3 else (s.get .s).val) a

/-! ## Exceptions -/

/-- Step 1 of R27 takes no interrupt. -/
abbrev NoInterrupt (s : State) : Prop :=
  s.flag .i ≠ .pos ∨ s.pendingInts = []

/-- Step 2 of R27 raises no breakpoint. -/
abbrev NoBreakpoint (s : State) : Prop :=
  s.flag .t ≠ .pos ∨ (s.ip.val ≠ s.dr1.val ∧ s.ip.val ≠ s.dr2.val ∧ s.ip.val ≠ s.dr3.val ∧ s.ip.val ≠ s.dr4.val)

/-- `raise #n` with the saved address has been taken and nothing else has happened: `CR3` holds the saved IP, IP the aligned
vector, and everything else is as in `s` (R334). -/
abbrev Entered (s t : State) (n : Int) (saved : Addr) : Prop :=
  t.cr3.val = saved.val ∧
    (∃ v : Addr, WrapOf 12 (s.cr2.val + 3 * n) v ∧ AlignOf (s.readWord v).val t.ip) ∧
    OnlyRegs s t [] ∧ OnlyFlags s t [] ∧ SameMem s t ∧ t.cr2 = s.cr2 ∧ t.cr4 = s.cr4 ∧ t.dr1 = s.dr1 ∧ t.dr2 = s.dr2 ∧
    t.dr3 = s.dr3 ∧ t.dr4 = s.dr4 ∧ t.ioLog = s.ioLog ∧ t.ioAnswers = s.ioAnswers ∧ t.params = s.params

/-- Exception `n` raised while an instruction executes: the saved IP is the following instruction's address, or under the switch
`EXC_SAVED_IP` the instruction's own (R334). -/
abbrev Raised (s t : State) (n : Int) : Prop :=
  (s.params.excSavedIp = .advanced → Entered s t n s.ip) ∧
    (s.params.excSavedIp = .faulting → Entered s t n (Bt.plus s.ip (-3))) ∧ t.pendingInts = s.pendingInts

/-- An alternative of `INVALID_FLAG` is met by the instruction that takes the machine from `s` to `t` (R336). -/
abbrev MeetsFlag (c : FlagCondition) (i : Instr) (s t : State) : Prop :=
  (∀ j, c.instr = some j → i = j) ∧ (∀ p ∈ c.before, s.cr1.tritAt p.1 = p.2) ∧ ∀ p ∈ c.after, t.cr1.tritAt p.1 = p.2

end Sys2Proof.Machine

namespace Sys2Proof

open Machine

/-! ## What an instruction may write -/

/-- The user registers an instruction may write, explicit destinations and implicit ones (R21, R374). -/
def Instr.destRegs : Instr → List Reg
  | .nop | .brk | .srt | .brr _ | .tbX _ _ _ _ | .szX _ | .spX _ | .snX _ | .zfX _ | .pfX _ | .nfX _ | .ssr _ _
  | .cmp _ _ | .sta _ _ | .sal _ _ | .sam _ _ | .sah _ _ | .cmi _ _ | .bri _ _ | .brs _ | .out _ _ | .oub _ _
  | .str _ _ | .stl _ _ | .stm _ _ | .sth _ _ | .bra _ | .brl _ | .bzX _ _ | .bpX _ _ | .bnX _ _ | .ldx _ | .stx _
  | .und _ => []
  | .ret | .caa _ | .psh _ | .cal _ | .car _ => [.s]
  | .pop a => [a, .s]
  | .lsr _ a | .sti a | .pti a | .nti a | .srz a | .srp a | .srn a | .shl a _ | .shr a _ | .rol a _ | .ror a _ | .rcl a _
  | .rcr a _ | .ldi a _ | .lil a _ | .lim a _ | .lih a _ | .pad a _ | .psb a _ | .int a _ | .inb a _ | .ldr a _ | .ldl a _
  | .ldm a _ | .ldh a _ => [a]
  | .add _ _ c | .adc _ _ c | .sub _ _ c | .sbc _ _ c | .min _ _ c | .max _ _ c | .teq _ _ c | .tem _ _ c => [c]
  | .mul _ _ c => [c, .o]
  | .div _ _ c => [c, .u]
  | .bin _ b | .tri _ b | .fdr _ b | .rdr _ b | .lda _ b | .lal _ b | .lam _ b | .lah _ b | .mov _ b | .adi _ b _
  | .sbi _ b _ => [b]
  | .xch a b => [a, b]
  | .mli _ b _ => [b, .o]
  | .dvi _ b _ => [b, .u]
  | .pmu a _ => [a, .o]
  | .pdv a _ => [a, .u]
  | .ldn a _ => [a, .n]
  | .stn _ _ => [.n]
  | .sys _ => [.r]
  | .lad _ => [.zero]

/-- The lettered flags an instruction may write (R32 to R36, R160, R191, R242, R280). `ssr` to `CR1` is not among them: it
writes all 18 trits. -/
def Instr.destFlags : Instr → List Flag
  | .add _ _ _ | .adc _ _ _ | .sub _ _ _ | .sbc _ _ _ | .mul _ _ _ | .div _ _ _ | .cmp _ _ | .adi _ _ _ | .sbi _ _ _
  | .mli _ _ _ | .dvi _ _ _ | .cmi _ _ | .pad _ _ | .psb _ _ | .pmu _ _ | .pdv _ _ => [.c, .s]
  | .shl _ _ | .shr _ _ | .rcl _ _ | .rcr _ _ => [.c]
  | .zfX f | .pfX f | .nfX f => [f]
  | .nop | .brk | .ret | .srt | .brr _ | .caa _ | .tbX _ _ _ _ | .szX _ | .spX _ | .snX _ | .lsr _ _ | .ssr _ _ | .psh _
  | .pop _ | .min _ _ _ | .max _ _ _ | .teq _ _ _ | .tem _ _ _ | .sti _ | .pti _ | .nti _ | .bin _ _ | .tri _ _ | .fdr _ _
  | .rdr _ _ | .lda _ _ | .lal _ _ | .lam _ _ | .lah _ _ | .sta _ _ | .sal _ _ | .sam _ _ | .sah _ _ | .mov _ _ | .xch _ _
  | .srz _ | .srp _ | .srn _ | .rol _ _ | .ror _ _ | .ldi _ _ | .lil _ _ | .lim _ _ | .lih _ _ | .ldn _ _ | .stn _ _
  | .bri _ _ | .brs _ | .sys _ | .int _ _ | .inb _ _ | .out _ _ | .oub _ _ | .ldr _ _ | .ldl _ _ | .ldm _ _ | .ldh _ _
  | .str _ _ | .stl _ _ | .stm _ _ | .sth _ _ | .lad _ | .bra _ | .brl _ | .cal _ | .car _ | .bzX _ _ | .bpX _ _ | .bnX _ _
  | .ldx _ | .stx _ | .und _ => []

/-- The addresses of the hexads an instruction stores to, with the address computed as its meaning computes it (R67, R71,
R231). -/
def Instr.storeAddrs (i : Instr) (s : State) : List Addr :=
  match i with
  | .str _ imm => wordAddrs (s.eaAbs imm)
  | .stl _ imm | .stm _ imm | .sth _ imm => [s.eaAbs imm]
  | .sta _ b => wordAddrs (s.eaInd b)
  | .sal _ b | .sam _ b | .sah _ b => [s.eaInd b]
  | .stn _ imm => wordAddrs (s.na imm)
  | .psh _ | .cal _ | .car _ | .caa _ => wordAddrs s.pushAddr
  | .nop | .brk | .ret | .srt | .brr _ | .tbX _ _ _ _ | .szX _ | .spX _ | .snX _ | .zfX _ | .pfX _ | .nfX _ | .lsr _ _
  | .ssr _ _ | .pop _ | .add _ _ _ | .adc _ _ _ | .sub _ _ _ | .sbc _ _ _ | .mul _ _ _ | .div _ _ _ | .cmp _ _
  | .min _ _ _ | .max _ _ _ | .teq _ _ _ | .tem _ _ _ | .sti _ | .pti _ | .nti _ | .bin _ _ | .tri _ _ | .fdr _ _
  | .rdr _ _ | .lda _ _ | .lal _ _ | .lam _ _ | .lah _ _ | .mov _ _ | .xch _ _ | .srz _ | .srp _ | .srn _ | .adi _ _ _
  | .sbi _ _ _ | .mli _ _ _ | .dvi _ _ _ | .cmi _ _ | .shl _ _ | .shr _ _ | .rol _ _ | .ror _ _ | .rcl _ _ | .rcr _ _
  | .ldi _ _ | .lil _ _ | .lim _ _ | .lih _ _ | .ldn _ _ | .bri _ _ | .brs _ | .sys _ | .pad _ _ | .psb _ _ | .pmu _ _
  | .pdv _ _ | .int _ _ | .inb _ _ | .out _ _ | .oub _ _ | .ldr _ _ | .ldl _ _ | .ldm _ _ | .ldh _ _ | .lad _ | .bra _
  | .brl _ | .bzX _ _ | .bpX _ _ | .bnX _ _ | .ldx _ | .stx _ | .und _ => []

/-- The instructions that can raise an exception in their execute phase (R330, R342). -/
def Instr.canRaise : Instr → Bool
  | .brk | .lsr _ _ | .ssr _ _ | .div _ _ _ | .dvi _ _ _ | .pdv _ _ | .ldx _ | .stx _ | .und _ => true
  | .nop | .ret | .srt | .brr _ | .caa _ | .tbX _ _ _ _ | .szX _ | .spX _ | .snX _ | .zfX _ | .pfX _ | .nfX _ | .psh _
  | .pop _ | .add _ _ _ | .adc _ _ _ | .sub _ _ _ | .sbc _ _ _ | .mul _ _ _ | .cmp _ _ | .min _ _ _ | .max _ _ _
  | .teq _ _ _ | .tem _ _ _ | .sti _ | .pti _ | .nti _ | .bin _ _ | .tri _ _ | .fdr _ _ | .rdr _ _ | .lda _ _ | .lal _ _
  | .lam _ _ | .lah _ _ | .sta _ _ | .sal _ _ | .sam _ _ | .sah _ _ | .mov _ _ | .xch _ _ | .srz _ | .srp _ | .srn _
  | .adi _ _ _ | .sbi _ _ _ | .mli _ _ _ | .cmi _ _ | .shl _ _ | .shr _ _ | .rol _ _ | .ror _ _ | .rcl _ _ | .rcr _ _
  | .ldi _ _ | .lil _ _ | .lim _ _ | .lih _ _ | .ldn _ _ | .stn _ _ | .bri _ _ | .brs _ | .sys _ | .pad _ _ | .psb _ _
  | .pmu _ _ | .int _ _ | .inb _ _ | .out _ _ | .oub _ _ | .ldr _ _ | .ldl _ _ | .ldm _ _ | .ldh _ _ | .str _ _ | .stl _ _
  | .stm _ _ | .sth _ _ | .lad _ | .bra _ | .brl _ | .cal _ | .car _ | .bzX _ _ | .bpX _ _ | .bnX _ _ => false

/-- The instructions that can assign IP in their execute phase, exceptions apart (R25, R264): every other instruction leaves
the address of the following instruction there. -/
def Instr.assignsIp : Instr → Bool
  | .ret | .srt | .brr _ | .caa _ | .tbX _ _ _ _ | .szX _ | .spX _ | .snX _ | .ssr _ _ | .bri _ _ | .brs _ | .sys _ | .bra _
  | .brl _ | .cal _ | .car _ | .bzX _ _ | .bpX _ _ | .bnX _ _ => true
  | .nop | .brk | .zfX _ | .pfX _ | .nfX _ | .lsr _ _ | .psh _ | .pop _ | .add _ _ _ | .adc _ _ _ | .sub _ _ _ | .sbc _ _ _
  | .mul _ _ _ | .div _ _ _ | .cmp _ _ | .min _ _ _ | .max _ _ _ | .teq _ _ _ | .tem _ _ _ | .sti _ | .pti _ | .nti _
  | .bin _ _ | .tri _ _ | .fdr _ _ | .rdr _ _ | .lda _ _ | .lal _ _ | .lam _ _ | .lah _ _ | .sta _ _ | .sal _ _ | .sam _ _
  | .sah _ _ | .mov _ _ | .xch _ _ | .srz _ | .srp _ | .srn _ | .adi _ _ _ | .sbi _ _ _ | .mli _ _ _ | .dvi _ _ _
  | .cmi _ _ | .shl _ _ | .shr _ _ | .rol _ _ | .ror _ _ | .rcl _ _ | .rcr _ _ | .ldi _ _ | .lil _ _ | .lim _ _ | .lih _ _
  | .ldn _ _ | .stn _ _ | .pad _ _ | .psb _ _ | .pmu _ _ | .pdv _ _ | .int _ _ | .inb _ _ | .out _ _ | .oub _ _ | .ldr _ _
  | .ldl _ _ | .ldm _ _ | .ldh _ _ | .str _ _ | .stl _ _ | .stm _ _ | .sth _ _ | .lad _ | .ldx _ | .stx _ | .und _ => false

/-- The event an I/O instruction logs, and none for every other instruction (R291, R298). -/
def Instr.ioEvents (i : Instr) (s : State) : List IoEvent :=
  match i with
  | .int _ imm => [.read imm .ternary (s.flag .b) (s.ioAnswer imm .ternary)]
  | .inb _ imm => [.read imm .binary (s.flag .b) (s.ioAnswer imm .binary)]
  | .out a imm => [.write imm .ternary (s.get a) (s.flag .b)]
  | .oub a imm => [.write imm .binary (s.get a) (s.flag .b)]
  | .nop | .brk | .ret | .srt | .brr _ | .caa _ | .tbX _ _ _ _ | .szX _ | .spX _ | .snX _ | .zfX _ | .pfX _ | .nfX _
  | .lsr _ _ | .ssr _ _ | .psh _ | .pop _ | .add _ _ _ | .adc _ _ _ | .sub _ _ _ | .sbc _ _ _ | .mul _ _ _ | .div _ _ _
  | .cmp _ _ | .min _ _ _ | .max _ _ _ | .teq _ _ _ | .tem _ _ _ | .sti _ | .pti _ | .nti _ | .bin _ _ | .tri _ _ | .fdr _ _
  | .rdr _ _ | .lda _ _ | .lal _ _ | .lam _ _ | .lah _ _ | .sta _ _ | .sal _ _ | .sam _ _ | .sah _ _ | .mov _ _ | .xch _ _
  | .srz _ | .srp _ | .srn _ | .adi _ _ _ | .sbi _ _ _ | .mli _ _ _ | .dvi _ _ _ | .cmi _ _ | .shl _ _ | .shr _ _
  | .rol _ _ | .ror _ _ | .rcl _ _ | .rcr _ _ | .ldi _ _ | .lil _ _ | .lim _ _ | .lih _ _ | .ldn _ _ | .stn _ _ | .bri _ _
  | .brs _ | .sys _ | .pad _ _ | .psb _ _ | .pmu _ _ | .pdv _ _ | .ldr _ _ | .ldl _ _ | .ldm _ _ | .ldh _ _ | .str _ _
  | .stl _ _ | .stm _ _ | .sth _ _ | .lad _ | .bra _ | .brl _ | .cal _ | .car _ | .bzX _ _ | .bpX _ _ | .bnX _ _ | .ldx _
  | .stx _ | .und _ => []

end Sys2Proof

namespace Sys2Proof.Machine

/-! ## What the assembler lays down -/

/-- The three hexads of a word in the order of memory (R61). -/
abbrev hexadsOf (w : Word) : List Hexad :=
  [w.hexad .low, w.hexad .mid, w.hexad .high]

/-- The assembler goes from `s` to `r` by inserting hexads (R321): each stands at its place from the current location upward,
which wraps at the top of memory (assumption log 24), unless there are more than the memory holds; every other hexad and every
constant is as before, and the location has moved past them. -/
abbrev Laid (s : Asm) (r : Option Asm) (hs : List Hexad) : Prop :=
  ∃ t, r = some t ∧ t.loc = Bt.plus s.loc hs.length ∧ t.consts = s.consts ∧ t.encoding = s.encoding ∧
    (hs.length ≤ 531441 → ∀ (k : Nat) (h : Hexad), hs[k]? = some h → t.image.read (Bt.plus s.loc k) = h) ∧
    ∀ x, (∀ k : Nat, k < hs.length → x ≠ Bt.plus s.loc k) → t.image.read x = s.image.read x

end Sys2Proof.Machine
end

