-- ==== Sys2Proof/Certificates/Slice0/Obligations.lean ====
section
/-!
DEFINITION. The statements for the provers, one `def Obligations.<Name> : Prop` each. A title says what is stated; the docstring says it
in full. Statements about what an instruction does hold for every state, reachable or not, and for every setting of the parameters.
-/

open Sys2Proof Sys2Proof.Machine

/-- After reset IP is %zzzz, rs is %000q, rz reads 0 and no interrupt is pending. The state after reset has IP = -265720, rs
= -4, rz reading 0 and no pending external interrupt. The values of everything else are the model's choice (assumption log 1,
2, 4, 5) and are not stated here. That no interrupt is pending is the spec's own decision D21. -/
def Obligations.ResetState : Prop :=
  State.reset.ip.val = -265720 ∧ (State.reset.get .s).val = -4 ∧ (State.reset.get .z).val = 0 ∧ State.reset.pendingInts = []

/-- The state after reset meets the invariant of every run. State.reset has an aligned IP, a memory in canonical form and
only legal interrupt numbers pending. The canonical form of the memory is the model's own (assumption log 3). -/
def Obligations.ResetMeetsTheInvariant : Prop :=
  State.reset.Inv

/-- A word of each format, written digit by digit from the tables, decodes to its instruction. Nine words written out from
the tables of SPEC-ENC-1, at least one of each format, decode to the instructions they stand for, and a word with an
unassigned major digit to none. SPEC-ENC-1 is the spec's own encoding (assumption log 6). -/
def Obligations.WordsDecodeAsTheTablesSay : Prop :=
  decode (word6 .zero .zero .zero .zero .zero .zero) = .ok .nop ∧
    decode (word6 .zero .F .A .B .C .A) = .ok (.tbX .A .B .C .s) ∧
    decode (word6 .zero .M .C .A .zero .zero) = .ok (.lsr .cr3 .A) ∧
    decode (word6 .A .A .A .B .C .zero) = .ok (.add .A .B .C) ∧
    decode (word6 .B .J .A .B .zero .zero) = .ok (.xch .A .B) ∧
    decode (word6 .C .A .A .B .E .y) = .ok (.adi .A .B (Bt.ofInt 6 123)) ∧
    decode (word6 .D .A .A .B .u .u) = .ok (.pad .A (Bt.ofInt 9 1234)) ∧
    decode (word6 .n .zero .A .B .C .D) = .ok (.bra (Bt.ofInt 12 21226)) ∧
    decode (word6 .r .I .zero .zero .A .C) = .ok (.bzX .p (Bt.ofInt 12 30)) ∧
    decode (word6 .w .zero .zero .zero .zero .zero) = .error .unassignedMajor

/-- A step runs the instruction its word decodes to, with IP already advanced by 3. When no interrupt is taken and no
breakpoint fires and the word at IP decodes to i under the parameter ENCODING, the step is exec of i at u, the state whose IP
has been advanced to the next word, wrapping from the top word of memory to %zzzz, and which is otherwise the same; only
where an alternative of INVALID_FLAG (by default there is none) is met by i and by CR1 before and after it, exception 3 is
entered from u instead, and nothing else happens. Rests on the spec's own decisions D2, D18 and D28 (92_eei_decisions.md).
The form of INVALID_FLAG, and that #IF takes the place of the whole effect, are the model's choice (assumption log 22); the
switch is that of assumption log 20. -/
def Obligations.StepRunsTheDecodedInstruction : Prop :=
  ∀ (s u : State) (i : Instr), NoInterrupt s → NoBreakpoint s → s.params.encoding.decode (s.readWord s.ip) = .ok i →
    u = { s with ip := Bt.plus s.ip 3 } →
    step s = checkFlags i u (exec i u) ∧ (s.params.invalidFlag = [] → step s = exec i u) ∧
      (∀ t, exec i u = .next t →
        ((∃ c ∈ s.params.invalidFlag, MeetsFlag c i u t) → ∃ v, step s = .next v ∧ Raised u v 3) ∧
        ((∀ c ∈ s.params.invalidFlag, ¬ MeetsFlag c i u t) → step s = .next t)) ∧
      (Bt.plus s.ip 3).val = (if s.ip.val ≤ 265717 then s.ip.val + 3 else s.ip.val + 3 - 531441)

/-- nop, the all-zero word, changes nothing, and its step advances IP by 3. The zero word is nop. Executing nop leaves the
whole state as it is, and a step that fetches a word of nop and meets no alternative of INVALID_FLAG (by default there is
none) answers the state with IP advanced by 3 and nothing else changed. The words are those of SPEC-ENC-1, the spec's own
decision D1 (assumption log 6). That the step advances IP first and wraps rests on the spec's own decision D2; when a step
raises #IF is the form the model gives INVALID_FLAG, D18 (assumption log 22). -/
def Obligations.NopDoesNothing : Prop :=
  (∀ w : Word, w.val = 0 → Spells w .nop) ∧ (∀ s : State, exec .nop s = .next s) ∧
    ∀ s : State, NoInterrupt s → NoBreakpoint s → s.params.encoding.decode (s.readWord s.ip) = .ok .nop →
      (∀ c ∈ s.params.invalidFlag, ¬ MeetsFlag c .nop s s) → step s = .next { s with ip := Bt.plus s.ip 3 }

/-- A word is read and written as three hexads, low first, each address wrapped. A word read at a is the low hexad at a, the
middle at a+1 and the high at a+2, each address wrapped to 12 trits; a word written at a puts its three hexads there and a
hexad written at a puts one, and no other hexad of memory changes. That each of the three addresses wraps by itself is the
spec's own decision D9 (assumption log 26). -/
def Obligations.MemoryWordsAreThreeHexads : Prop :=
  ∀ (s : State) (a : Addr) (v : Word) (h : Hexad),
    (s.readWord a).val =
        (s.readHexad a).val + 729 * (s.readHexad (Bt.plus a 1)).val + 531441 * (s.readHexad (Bt.plus a 2)).val ∧
      v.val = (v.hexad .low).val + 729 * (v.hexad .mid).val + 531441 * (v.hexad .high).val ∧
      StoredWord s (s.writeWord a v) a v ∧ StoredHexad s (s.writeHexad a h) a h ∧
      WrapOf 12 (a.val + 1) (Bt.plus a 1) ∧ WrapOf 12 (a.val + 2) (Bt.plus a 2)

/-- Memories in canonical form that read the same are the same data. Two memories in the model's canonical form that agree on
every address are equal, and every write of a hexad keeps the form. The form is the model's own (assumption log 3). -/
def Obligations.MemoryFormIsCanonical : Prop :=
  (∀ m m' : Memory, m.wf → m'.wf → (∀ a, m.read a = m'.read a) → m = m') ∧
    ∀ (m : Memory) (a : Addr) (h : Hexad), m.wf → (m.write a h).wf

/-- add, adc, adi and pad write the wrapped exact sum, Carry and Sign, and nothing else. For every state and every operand,
rz and special registers included: the instruction completes, the destination receives the 18-trit wrapping of the exact sum,
exact = Carry * 3^18 + result, Sign is the sign of the result, and every other register, flag, system register, memory hexad,
the I/O log and IP are unchanged. Rests on the spec's own decision D3 (92_eei_decisions.md). -/
def Obligations.AdditionsWriteSumCarryAndSign : Prop :=
  ∀ (s : State) (a b c : Reg) (imm : Hexad) (imm9 : Nonad),
    (∃ t, exec (.add a b c) s = .next t ∧ SumInto s t ((s.get a).val + (s.get b).val) c) ∧
    (∃ t, exec (.adc a b c) s = .next t ∧ SumInto s t ((s.get a).val + (s.get b).val + (s.flag .c).toInt) c) ∧
    (∃ t, exec (.adi a b imm) s = .next t ∧ SumInto s t ((s.get a).val + imm.val) b) ∧
    (∃ t, exec (.pad a imm9) s = .next t ∧ SumInto s t ((s.get a).val + imm9.val) a)

/-- sub, sbc, sbi and psb write the wrapped exact difference, Carry and Sign, and nothing else. For every state and every
operand: the instruction completes, the destination receives the 18-trit wrapping of the exact difference, exact = Carry *
3^18 + result, Sign is the sign of the result, and everything else is unchanged. Rests on the spec's own decision D3
(92_eei_decisions.md). -/
def Obligations.SubtractionsWriteDifferenceCarryAndSign : Prop :=
  ∀ (s : State) (a b c : Reg) (imm : Hexad) (imm9 : Nonad),
    (∃ t, exec (.sub a b c) s = .next t ∧ SumInto s t ((s.get a).val - (s.get b).val) c) ∧
    (∃ t, exec (.sbc a b c) s = .next t ∧ SumInto s t ((s.get a).val - (s.get b).val - (s.flag .c).toInt) c) ∧
    (∃ t, exec (.sbi a b imm) s = .next t ∧ SumInto s t ((s.get a).val - imm.val) b) ∧
    (∃ t, exec (.psb a imm9) s = .next t ∧ SumInto s t ((s.get a).val - imm9.val) a)

/-- cmp and cmi set Carry and Sign from the exact difference, write no register, and order their operands. For every state
and operand: the instruction completes, difference = Carry * 3^18 + r for a word r whose sign is Sign, no register, memory
hexad or other flag changes; cmp is sub into rz; and Carry, or Sign when Carry is 0, is the sign of the difference, so it
orders the operands. Rests on the spec's own decision D3 (92_eei_decisions.md). -/
def Obligations.ComparesSetCarryAndSignOnly : Prop :=
  ∀ (s : State) (a b : Reg) (imm : Hexad),
    (exec (.cmp a b) s = exec (.sub a b .z) s ∧
      ∃ t, exec (.cmp a b) s = .next t ∧
        (∃ w : Word, (s.get a).val - (s.get b).val = (t.flag .c).toInt * 3 ^ 18 + w.val ∧ (t.flag .s).toInt = w.val.sign) ∧
        ((s.get a).val - (s.get b).val).sign = (if t.flag .c = .zero then t.flag .s else t.flag .c).toInt ∧
        KeepsAll s t [] [.c, .s]) ∧
    (∃ t, exec (.cmi a imm) s = .next t ∧
        (∃ w : Word, (s.get a).val - imm.val = (t.flag .c).toInt * 3 ^ 18 + w.val ∧ (t.flag .s).toInt = w.val.sign) ∧
        ((s.get a).val - imm.val).sign = (if t.flag .c = .zero then t.flag .s else t.flag .c).toInt ∧
        KeepsAll s t [] [.c, .s])

/-- mul, mli and pmu split the exact product into destination and ro and set Sign to its sign. For every state and every
destination but ro: the instruction completes, product = ro * 3^18 + low with low in the destination (discarded for rz), Sign
is the sign of the whole product, Carry may be anything, and everything else is unchanged. The destination ro is covered by
UnspecifiedResultsStillComplete. Rests on the spec's own decision D4 (92_eei_decisions.md). Carry is left free (assumption
log 7). -/
def Obligations.ProductsSplitIntoTwoWords : Prop :=
  ∀ (s : State) (a b c : Reg) (imm : Hexad) (imm9 : Nonad),
    ((c ≠ .o →
        ∃ t, exec (.mul a b c) s = .next t ∧ ProductInto s t ((s.get a).val * (s.get b).val) c)) ∧
    ((b ≠ .o →
        ∃ t, exec (.mli a b imm) s = .next t ∧ ProductInto s t ((s.get a).val * imm.val) b)) ∧
    ((a ≠ .o →
        ∃ t, exec (.pmu a imm9) s = .next t ∧ ProductInto s t ((s.get a).val * imm9.val) a))

/-- div, dvi and pdv divide ro:rA, write quotient then remainder, set Carry and Sign, or raise #D0. A zero divisor raises
exception 0 and writes nothing else. Otherwise the dividend ro * 3^18 + rA is q * d + m with |m| < |d|, truncated toward zero
under the default DIVMOD; the destination receives the low 18 trits of q and then ru receives m; Carry is the sign of a
quotient that does not fit a word and 0 else, Sign the sign of the word written; everything else is unchanged. Rests on the
spec's own decisions D5 and D14 (92_eei_decisions.md). The settings are those of assumption log 16 and 20. -/
def Obligations.DivisionsWriteQuotientAndRemainder : Prop :=
  ∀ (s : State) (a b c : Reg) (imm : Hexad) (imm9 : Nonad),
    (((s.get b).val = 0 → ∃ t, exec (.div a b c) s = .next t ∧ Raised s t 0) ∧
      ((s.get b).val ≠ 0 → ∃ t, exec (.div a b c) s = .next t ∧
        QuotientInto s t ((s.get .o).val * 3 ^ 18 + (s.get a).val) ((s.get b).val) c)) ∧
    ((imm.val = 0 → ∃ t, exec (.dvi a b imm) s = .next t ∧ Raised s t 0) ∧
      (imm.val ≠ 0 → ∃ t, exec (.dvi a b imm) s = .next t ∧
        QuotientInto s t ((s.get .o).val * 3 ^ 18 + (s.get a).val) (imm.val) b)) ∧
    ((imm9.val = 0 → ∃ t, exec (.pdv a imm9) s = .next t ∧ Raised s t 0) ∧
      (imm9.val ≠ 0 → ∃ t, exec (.pdv a imm9) s = .next t ∧
        QuotientInto s t ((s.get .o).val * 3 ^ 18 + (s.get a).val) (imm9.val) a))

/-- shl and shr by a non-negative count: closed forms of register and Carry. For a count of 0 nothing changes. For 1 to 18,
shl leaves the wrapping of a * 3^k and the old trit 18-k in Carry; shr leaves the trits 17..k, the nearest integer to a /
3^k, and the old trit k-1 in Carry. From 19 on both are 0. Only the register and Carry change. Negative counts are covered by
UnspecifiedResultsStillComplete. That the count is a hexad is the spec's own decision D7 (92_eei_decisions.md). -/
def Obligations.ShiftsThroughCarry : Prop :=
  ∀ (s : State) (a : Reg) (imm : Hexad) (k : Nat), imm.val = k →
    (∃ (t : State) (w : Word), exec (.shl a imm) s = .next t ∧ Wrote t a w ∧
      (k = 0 → w = s.get a ∧ t.flag .c = s.flag .c) ∧
      (1 ≤ k ∧ k ≤ 18 → WrapOf 18 ((s.get a).val * 3 ^ k) w ∧ t.flag .c = (s.get a).trit (18 - k)) ∧
      (19 ≤ k → w.val = 0 ∧ t.flag .c = .zero) ∧ KeepsAll s t [a] [.c]) ∧
    (∃ (t : State) (w : Word), exec (.shr a imm) s = .next t ∧ Wrote t a w ∧
      (k = 0 → w = s.get a ∧ t.flag .c = s.flag .c) ∧
      (1 ≤ k ∧ k ≤ 18 → 2 * ((s.get a).val - 3 ^ k * w.val).natAbs < 3 ^ k ∧ t.flag .c = (s.get a).trit (k - 1)) ∧
      (19 ≤ k → w.val = 0 ∧ t.flag .c = .zero) ∧ KeepsAll s t [a] [.c])

/-- rol and ror move trits around the 18 positions, rcl and rcr around the ring of register and Carry. By a non-negative
count k: rol puts old trit i at position (i + k) mod 18; ror puts old trit (i + k) mod 18 at position i; both touch no flag.
With the trits of the register at positions 0 to 17 and Carry at 18, rcl moves position i to (i + k) mod 19, and rcr moves
position (i + k) mod 19 to i. Only the register, and for rcl and rcr Carry, change. Negative counts are covered by
UnspecifiedResultsStillComplete. That the ring may be read from either end is derived in R168; the count is a hexad by the
spec's own decision D7 (92_eei_decisions.md). -/
def Obligations.Rotations : Prop :=
  ∀ (s : State) (a : Reg) (imm : Hexad) (k : Nat), imm.val = k →
    (∃ (t : State) (w : Word), exec (.rol a imm) s = .next t ∧ Wrote t a w ∧
      (∀ i < 18, w.trit ((i + k) % 18) = (s.get a).trit i) ∧ KeepsAll s t [a] []) ∧
    (∃ (t : State) (w : Word), exec (.ror a imm) s = .next t ∧ Wrote t a w ∧
      (∀ i < 18, w.trit i = (s.get a).trit ((i + k) % 18)) ∧ KeepsAll s t [a] []) ∧
    (∃ (t : State) (w : Word), exec (.rcl a imm) s = .next t ∧ Wrote t a w ∧
      (∀ i < 19, ringTrit w (t.flag .c) ((i + k) % 19) = ringTrit (s.get a) (s.flag .c) i) ∧ KeepsAll s t [a] [.c]) ∧
    (∃ (t : State) (w : Word), exec (.rcr a imm) s = .next t ∧ Wrote t a w ∧
      (∀ i < 19, ringTrit w (t.flag .c) i = ringTrit (s.get a) (s.flag .c) ((i + k) % 19)) ∧ KeepsAll s t [a] [.c])

/-- Aligning reduces to 12 trits, replaces the lowest trit by -1 and keeps the others. For every integer v that reduces to
the address a: align(v) is a minus its lowest trit minus 1; its lowest trit is -1 and its eleven others are those of a. In
the source's example bra %ABCD leaves IP at %ABCB. -/
def Obligations.AlignReplacesTheLowestTrit : Prop :=
  (∀ (v : Int) (a : Addr), WrapOf 12 v a →
      (align v).val = a.val - (a.trit 0).toInt - 1 ∧ (align v).trit 0 = .neg ∧
        ∀ i, 1 ≤ i → i < 12 → (align v).trit i = a.trit i) ∧
    ∀ (s : State) (x y : Addr), x.val = numeral [.A, .B, .C, .D] → y.val = numeral [.A, .B, .C, .B] →
      ∃ t, exec (.bra x) s = .next t ∧ t.ip = y

/-- A multiply into ro, a negative count and tri on a -1 trit complete, changing only what they name. Model's choice
(assumption log 8, 9, 10): where the spec leaves a result unspecified the instruction completes, that result is any word, and
the rest is as the rule says. A multiply into ro leaves one of the two product words there and Sign as its sign; shifts and
rotates by a negative count change only the register and, for shl, shr, rcl and rcr, Carry; tri of a word with a trit of -1
changes only its destination. -/
def Obligations.UnspecifiedResultsStillComplete : Prop :=
  ∀ (s : State) (a b : Reg) (imm : Hexad) (imm9 : Nonad),
    (∀ i p, (i = Instr.mul a b .o ∧ p = (s.get a).val * (s.get b).val) ∨ (i = .mli a .o imm ∧ p = (s.get a).val * imm.val) ∨
        (i = .pmu .o imm9 ∧ p = (s.get .o).val * imm9.val) →
      ∃ (t : State) (lo hi : Word), exec i s = .next t ∧ p = hi.val * 3 ^ 18 + lo.val ∧ (t.get .o = lo ∨ t.get .o = hi) ∧
        (t.flag .s).toInt = p.sign ∧ KeepsAll s t [.o] [.c, .s]) ∧
    (∀ i, imm.val < 0 → i = Instr.shl a imm ∨ i = .shr a imm ∨ i = .rcl a imm ∨ i = .rcr a imm →
      ∃ t, exec i s = .next t ∧ (t.get .z).val = 0 ∧ KeepsAll s t [a] [.c]) ∧
    (∀ i, imm.val < 0 → i = Instr.rol a imm ∨ i = .ror a imm →
      ∃ t, exec i s = .next t ∧ (t.get .z).val = 0 ∧ KeepsAll s t [a] []) ∧
    ((∃ k < 18, (s.get a).trit k = .neg) →
      ∃ t, exec (.tri a b) s = .next t ∧ (t.get .z).val = 0 ∧ KeepsAll s t [b] [])

/-- sti negates the register; pti and nti invert trit by trit with 0 going to +1 or -1. sti leaves the negative of the
register. pti leaves -1 where the trit was +1 and +1 elsewhere; nti leaves +1 where the trit was -1 and -1 elsewhere. Nothing
but the register changes. The words are those of SPEC-ENC-1, the spec's own decision D1 (assumption log 6). That no flag
changes is the spec's own decision D6 (92_eei_decisions.md). -/
def Obligations.Inversions : Prop :=
  ∀ (s : State) (a : Reg),
    (Spells (word6 .A .L a .zero .zero .zero) (.sti a) ∧ ∃ (t : State) (w : Word), exec (.sti a) s = .next t ∧
      Wrote t a w ∧ w.val = -(s.get a).val ∧ KeepsAll s t [a] []) ∧
    (Spells (word6 .A .M a .zero .zero .zero) (.pti a) ∧ ∃ (t : State) (w : Word), exec (.pti a) s = .next t ∧
      Wrote t a w ∧ (∀ i < 18, w.trit i = if (s.get a).trit i = .pos then .neg else .pos) ∧ KeepsAll s t [a] []) ∧
    (Spells (word6 .A .n a .zero .zero .zero) (.nti a) ∧ ∃ (t : State) (w : Word), exec (.nti a) s = .next t ∧
      Wrote t a w ∧ (∀ i < 18, w.trit i = if (s.get a).trit i = .neg then .pos else .neg) ∧ KeepsAll s t [a] [])

/-- min, max, teq and tem work on each of the 18 trits, whichever registers coincide. For every choice of the three
registers, each trit of the result is the minimum, the maximum, +1 or -1 for equal or different, or the product of the source
trits; nothing but the destination changes. The words are those of SPEC-ENC-1, the spec's own decision D1 (assumption log 6).
That no flag changes is the spec's own decision D6 (92_eei_decisions.md). -/
def Obligations.TritwiseOperations : Prop :=
  ∀ (s : State) (a b c : Reg),
    (Spells (word6 .A .H a b c .zero) (.min a b c) ∧ ∃ (t : State) (w : Word), exec (.min a b c) s = .next t ∧
      Wrote t c w ∧ (∀ i < 18, (w.trit i).toInt = Min.min ((s.get a).trit i).toInt ((s.get b).trit i).toInt) ∧ KeepsAll s t [c] []) ∧
    (Spells (word6 .A .I a b c .zero) (.max a b c) ∧ ∃ (t : State) (w : Word), exec (.max a b c) s = .next t ∧
      Wrote t c w ∧ (∀ i < 18, (w.trit i).toInt = Max.max ((s.get a).trit i).toInt ((s.get b).trit i).toInt) ∧ KeepsAll s t [c] []) ∧
    (Spells (word6 .A .J a b c .zero) (.teq a b c) ∧ ∃ (t : State) (w : Word), exec (.teq a b c) s = .next t ∧
      Wrote t c w ∧ (∀ i < 18, (w.trit i).toInt = if (s.get a).trit i = (s.get b).trit i then 1 else -1) ∧ KeepsAll s t [c] []) ∧
    (Spells (word6 .A .K a b c .zero) (.tem a b c) ∧ ∃ (t : State) (w : Word), exec (.tem a b c) s = .next t ∧
      Wrote t c w ∧ (∀ i < 18, (w.trit i).toInt = ((s.get a).trit i).toInt * ((s.get b).trit i).toInt) ∧ KeepsAll s t [c] [])

/-- ldr and lda load the word at the effective address and change nothing else. The address is the immediate, or the
register's value, plus rp when the Absolute flag is +1, reduced to 12 trits at any alignment; the destination receives the
word there (rz discards it), and everything else is unchanged. The words are those of SPEC-ENC-1, the spec's own decision D1
(assumption log 6). The effective address is that of R190; that the Absolute flag adds rp once and no flag changes, and that
addresses wrap, rest on the spec's own decisions D6, D8 and D9 (92_eei_decisions.md, assumption log 26). -/
def Obligations.WordLoads : Prop :=
  ∀ (s : State) (a b : Reg) (imm : Addr),
    (Spells (wordA .E a imm) (.ldr a imm) ∧ EffectiveOf s imm.val (s.eaAbs imm) ∧ ∃ t, exec (.ldr a imm) s = .next t ∧
      Wrote t a (s.readWord (s.eaAbs imm)) ∧ KeepsAll s t [a] []) ∧
    (Spells (word6 .B .A a b .zero .zero) (.lda a b) ∧ EffectiveOf s (s.get a).val (s.eaInd a) ∧
      ∃ t, exec (.lda a b) s = .next t ∧ Wrote t b (s.readWord (s.eaInd a)) ∧ KeepsAll s t [b] [])

/-- ldl, ldm, ldh, lal, lam and lah replace one hexad of the destination and keep the other two. One hexad at the effective
address (immediate or register, plus rp when the Absolute flag is +1) replaces the low, middle or high hexad of the
destination; the other twelve trits and everything else are unchanged. The words are those of SPEC-ENC-1, the spec's own
decision D1 (assumption log 6). The effective address is that of R190; that the Absolute flag adds rp once and no flag
changes, and that addresses wrap, rest on the spec's own decisions D6, D8 and D9 (92_eei_decisions.md, assumption log 26). -/
def Obligations.HexadLoads : Prop :=
  ∀ (s : State) (a b : Reg) (imm : Addr),
    EffectiveOf s imm.val (s.eaAbs imm) ∧ EffectiveOf s (s.get a).val (s.eaInd a) ∧
    (Spells (wordA .F a imm) (.ldl a imm) ∧ ∃ t, exec (.ldl a imm) s = .next t ∧
      PutHexad s t a .low (s.readHexad (s.eaAbs imm))) ∧
    (Spells (wordA .G a imm) (.ldm a imm) ∧ ∃ t, exec (.ldm a imm) s = .next t ∧
      PutHexad s t a .mid (s.readHexad (s.eaAbs imm))) ∧
    (Spells (wordA .H a imm) (.ldh a imm) ∧ ∃ t, exec (.ldh a imm) s = .next t ∧
      PutHexad s t a .high (s.readHexad (s.eaAbs imm))) ∧
    (Spells (word6 .B .B a b .zero .zero) (.lal a b) ∧ ∃ t, exec (.lal a b) s = .next t ∧
      PutHexad s t b .low (s.readHexad (s.eaInd a))) ∧
    (Spells (word6 .B .C a b .zero .zero) (.lam a b) ∧ ∃ t, exec (.lam a b) s = .next t ∧
      PutHexad s t b .mid (s.readHexad (s.eaInd a))) ∧
    (Spells (word6 .B .D a b .zero .zero) (.lah a b) ∧ ∃ t, exec (.lah a b) s = .next t ∧
      PutHexad s t b .high (s.readHexad (s.eaInd a)))

/-- ldi and lad load an integer, lil, lim and lih one hexad of the destination. ldi leaves the immediate's integer in the
destination, lad the address in r0; lil, lim and lih replace the low, middle or high hexad and keep the other two. Everything
else is unchanged. The words are those of SPEC-ENC-1, the spec's own decision D1 (assumption log 6). That no flag changes is
the spec's own decision D6 (92_eei_decisions.md). -/
def Obligations.ImmediateLoads : Prop :=
  ∀ (s : State) (a : Reg) (imm : Hexad) (addr : Addr),
    (Spells (wordI .C .L a .zero imm) (.ldi a imm) ∧ ∃ (t : State) (w : Word), exec (.ldi a imm) s = .next t ∧
      Wrote t a w ∧ w.val = imm.val ∧ KeepsAll s t [a] []) ∧
    (Spells (wordI .C .M a .zero imm) (.lil a imm) ∧ ∃ t, exec (.lil a imm) s = .next t ∧ PutHexad s t a .low imm) ∧
    (Spells (wordI .C .n a .zero imm) (.lim a imm) ∧ ∃ t, exec (.lim a imm) s = .next t ∧ PutHexad s t a .mid imm) ∧
    (Spells (wordI .C .o a .zero imm) (.lih a imm) ∧ ∃ t, exec (.lih a imm) s = .next t ∧ PutHexad s t a .high imm) ∧
    (Spells (wordA .M .zero addr) (.lad addr) ∧ ∃ t, exec (.lad addr) s = .next t ∧
      (t.get .zero).val = addr.val ∧ KeepsAll s t [.zero] [])

/-- str and sta store a word at the effective address and change no other hexad and no register. The three hexads of the
source register stand little-endian at the effective address (immediate or register, plus rp when the Absolute flag is +1),
at any alignment; every other hexad, every register and flag, and IP are unchanged. The words are those of SPEC-ENC-1, the
spec's own decision D1 (assumption log 6). The effective address is that of R190; that the Absolute flag adds rp once and no
flag changes, and that addresses wrap, rest on the spec's own decisions D6, D8 and D9 (92_eei_decisions.md, assumption log
26). -/
def Obligations.WordStores : Prop :=
  ∀ (s : State) (a b : Reg) (imm : Addr),
    (Spells (wordA .I a imm) (.str a imm) ∧ EffectiveOf s imm.val (s.eaAbs imm) ∧ ∃ t, exec (.str a imm) s = .next t ∧
      StoredWord s t (s.eaAbs imm) (s.get a) ∧ Keeps s t [] [] ∧ t.ip = s.ip) ∧
    (Spells (word6 .B .E a b .zero .zero) (.sta a b) ∧ EffectiveOf s (s.get b).val (s.eaInd b) ∧
      ∃ t, exec (.sta a b) s = .next t ∧ StoredWord s t (s.eaInd b) (s.get a) ∧ Keeps s t [] [] ∧ t.ip = s.ip)

/-- stl, stm, sth, sal, sam and sah store one hexad and change nothing else. The low, middle or high hexad of the source
register is stored at the effective address (immediate or register, plus rp when the Absolute flag is +1); every other hexad,
every register and flag, and IP are unchanged. The words are those of SPEC-ENC-1, the spec's own decision D1 (assumption log
6). The effective address is that of R190; that the Absolute flag adds rp once and no flag changes, and that addresses wrap,
rest on the spec's own decisions D6, D8 and D9 (92_eei_decisions.md, assumption log 26). -/
def Obligations.HexadStores : Prop :=
  ∀ (s : State) (a b : Reg) (imm : Addr),
    EffectiveOf s imm.val (s.eaAbs imm) ∧ EffectiveOf s (s.get b).val (s.eaInd b) ∧
    (Spells (wordA .J a imm) (.stl a imm) ∧ ∃ t, exec (.stl a imm) s = .next t ∧
      StoredHexad s t (s.eaAbs imm) ((s.get a).hexad .low) ∧ Keeps s t [] [] ∧ t.ip = s.ip) ∧
    (Spells (wordA .K a imm) (.stm a imm) ∧ ∃ t, exec (.stm a imm) s = .next t ∧
      StoredHexad s t (s.eaAbs imm) ((s.get a).hexad .mid) ∧ Keeps s t [] [] ∧ t.ip = s.ip) ∧
    (Spells (wordA .L a imm) (.sth a imm) ∧ ∃ t, exec (.sth a imm) s = .next t ∧
      StoredHexad s t (s.eaAbs imm) ((s.get a).hexad .high) ∧ Keeps s t [] [] ∧ t.ip = s.ip) ∧
    (Spells (word6 .B .F a b .zero .zero) (.sal a b) ∧ ∃ t, exec (.sal a b) s = .next t ∧
      StoredHexad s t (s.eaInd b) ((s.get a).hexad .low) ∧ Keeps s t [] [] ∧ t.ip = s.ip) ∧
    (Spells (word6 .B .G a b .zero .zero) (.sam a b) ∧ ∃ t, exec (.sam a b) s = .next t ∧
      StoredHexad s t (s.eaInd b) ((s.get a).hexad .mid) ∧ Keeps s t [] [] ∧ t.ip = s.ip) ∧
    (Spells (word6 .B .H a b .zero .zero) (.sah a b) ∧ ∃ t, exec (.sah a b) s = .next t ∧
      StoredHexad s t (s.eaInd b) ((s.get a).hexad .high) ∧ Keeps s t [] [] ∧ t.ip = s.ip)

/-- ldn and stn access disp + rp + rn and then move rn by the Direction flag. The address is displacement + rp + rn in 12
trits, rp entering once (twice under Absolute = +1 only when LDN_RP_TWICE is set). ldn loads the word there and then adds the
Direction flag to rn, also when the destination is rn; stn stores the source, the old rn included, and then moves rn.
Everything else is unchanged. Rests on the spec's own decision D8 (92_eei_decisions.md). The switch is that of assumption log
19. -/
def Obligations.IndexedAccesses : Prop :=
  ∀ (s : State) (a : Reg) (imm : Hexad), IndexedOf s imm.val (s.na imm) ∧
    (∃ t, exec (.ldn a imm) s = .next t ∧
      (a ≠ .n → Wrote t a (s.readWord (s.na imm)) ∧ WrapOf 18 ((s.get .n).val + (s.flag .d).toInt) (t.get .n)) ∧
      (a = .n → WrapOf 18 ((s.readWord (s.na imm)).val + (s.flag .d).toInt) (t.get .n)) ∧ KeepsAll s t [a, .n] []) ∧
    (∃ t, exec (.stn a imm) s = .next t ∧
      StoredWord s t (s.na imm) (s.get a) ∧ WrapOf 18 ((s.get .n).val + (s.flag .d).toInt) (t.get .n) ∧
      Keeps s t [.n] [] ∧ t.ip = s.ip)

/-- mov copies, xch exchanges, srz, srp and srn set all trits, none touching a flag. mov leaves the source's word in the
destination; xch leaves each register's old word in the other (a register that is rz stays 0); srz, srp and srn leave 0, the
largest and the smallest word. No flag, no memory hexad and no other register changes. The words are those of SPEC-ENC-1, the
spec's own decision D1 (assumption log 6). That no flag changes is the spec's own decision D6 (92_eei_decisions.md). -/
def Obligations.MovesAndSets : Prop :=
  ∀ (s : State) (a b : Reg),
    (Spells (word6 .B .I a b .zero .zero) (.mov a b) ∧ ∃ t, exec (.mov a b) s = .next t ∧
      Wrote t b (s.get a) ∧ KeepsAll s t [b] []) ∧
    (Spells (word6 .B .J a b .zero .zero) (.xch a b) ∧ ∃ t, exec (.xch a b) s = .next t ∧
      Wrote t b (s.get a) ∧ Wrote t a (s.get b) ∧ KeepsAll s t [a, b] []) ∧
    (Spells (word6 .B .K a .zero .zero .zero) (.srz a) ∧ ∃ (t : State) (w : Word), exec (.srz a) s = .next t ∧
      Wrote t a w ∧ w.val = 0 ∧ KeepsAll s t [a] []) ∧
    (Spells (word6 .B .L a .zero .zero .zero) (.srp a) ∧ ∃ (t : State) (w : Word), exec (.srp a) s = .next t ∧
      Wrote t a w ∧ w.val = 193710244 ∧ KeepsAll s t [a] []) ∧
    (Spells (word6 .B .M a .zero .zero .zero) (.srn a) ∧ ∃ (t : State) (w : Word), exec (.srn a) s = .next t ∧
      Wrote t a w ∧ w.val = -193710244 ∧ KeepsAll s t [a] [])

/-- psh stores the register at rs and moves rs down by 3. The word of the source register, for rs its value before the
decrement, stands at the address in rs; rs is 3 lower, wrapped; every hexad outside that word, every other register, every
flag and IP are unchanged. The words are those of SPEC-ENC-1, the spec's own decision D1 (assumption log 6). That the
Absolute flag is not applied to the stack address is the spec's own decision D8, that no flag changes D6, and that the
addresses of the word wrap D9 (92_eei_decisions.md, assumption log 26). -/
def Obligations.PushStoresThenMovesDown : Prop :=
  ∀ (s : State) (a : Reg), Spells (word6 .zero .o a .zero .zero .zero) (.psh a) ∧
    ∃ t, exec (.psh a) s = .next t ∧ Pushed s t (s.get a) ∧ t.ip = s.ip

/-- pop moves rs up by 3 and loads the word there, or reads first under POP_ORDER. The word at rs + 3 (at rs under the
literal POP_ORDER) goes to the destination and rs is 3 higher; with destination rs and the default order the popped word
stays in rs; rz discards it. Nothing else changes. Rests on the spec's own decision D26 (92_eei_decisions.md). The switch is
that of assumption log 17. -/
def Obligations.PopMovesUpThenReads : Prop :=
  ∀ (s : State) (a : Reg), ∃ (t : State) (p : Addr), exec (.pop a) s = .next t ∧ PopFrom s p ∧
      (a ≠ .s → Wrote t a (s.readWord p) ∧ WrapOf 18 ((s.get .s).val + 3) (t.get .s)) ∧
      (a = .s → s.params.popOrder = .before → t.get .s = s.readWord p) ∧ KeepsAll s t [a, .s] []

/-- psh then pop copies, and a call then ret resumes after the call, with rs as it was. Under the default POP_ORDER, for
every rs, at the ends of the word range and of the memory too: after psh a and pop b, register b (not rs) holds what a held,
rs is what it was, and no other register has changed; and from an aligned IP, after cal, car or caa and then ret, IP is again
the address of the instruction after the call and no register has changed. Rests on the spec's own decisions D2 and D26
(92_eei_decisions.md). -/
def Obligations.StackRoundTrips : Prop :=
  ∀ s : State, s.params.popOrder = .before →
    (∀ a b : Reg, b ≠ .s →
      ∃ t u, exec (.psh a) s = .next t ∧ exec (.pop b) t = .next u ∧ Wrote u b (s.get a) ∧ u.get .s = s.get .s ∧
        OnlyRegs s u [b]) ∧
    ∀ i : Instr, Aligned s.ip → ((∃ addr, i = .cal addr) ∨ (∃ addr, i = .car addr) ∨ ∃ a, i = .caa a) →
      ∃ t u, exec i s = .next t ∧ exec .ret t = .next u ∧ u.ip = s.ip ∧ OnlyRegs s u []

/-- bra, brr, bri, brs and brl set IP to the word that contains the computed target. IP becomes the start of the instruction
word that contains the target reduced to 12 trits: the immediate, the register, register plus displacement, or the following
instruction's address plus displacement. Nothing else changes. The words are those of SPEC-ENC-1, the spec's own decision D1
(assumption log 6). The IP that brs and brl add to is the spec's own decision D2, and the wrap of the target D9
(92_eei_decisions.md, assumption log 26). -/
def Obligations.UnconditionalBranches : Prop :=
  ∀ (s : State) (a : Reg) (imm : Hexad) (addr : Addr),
    (Spells (wordA .n .zero addr) (.bra addr) ∧ ∃ t, exec (.bra addr) s = .next t ∧ JumpedTo s t (addr.val)) ∧
    (Spells (word6 .zero .D a .zero .zero .zero) (.brr a) ∧ ∃ t, exec (.brr a) s = .next t ∧ JumpedTo s t ((s.get a).val)) ∧
    (Spells (wordI .C .r a .zero imm) (.bri a imm) ∧ ∃ t, exec (.bri a imm) s = .next t ∧ JumpedTo s t ((s.get a).val + imm.val)) ∧
    (Spells (wordI .C .s .zero .zero imm) (.brs imm) ∧ ∃ t, exec (.brs imm) s = .next t ∧ JumpedTo s t (s.ip.val + imm.val)) ∧
    (Spells (wordA .o .zero addr) (.brl addr) ∧ ∃ t, exec (.brl addr) s = .next t ∧ JumpedTo s t (s.ip.val + addr.val))

/-- bzX, bpX and bnX branch exactly when the flag is 0, +1 or -1, else do nothing. For every flag: when it has the tested
value, IP becomes the aligned sum of the following instruction's address and the displacement and nothing else changes;
otherwise the state is unchanged. Rests on the spec's own decisions D2 and D12 (92_eei_decisions.md). -/
def Obligations.ConditionalBranches : Prop :=
  ∀ (s : State) (f : Flag) (addr : Addr),
    ((s.flag f = .zero → ∃ t, exec (.bzX f addr) s = .next t ∧ JumpedTo s t (s.ip.val + addr.val)) ∧
      (s.flag f ≠ .zero → exec (.bzX f addr) s = .next s)) ∧
    ((s.flag f = .pos → ∃ t, exec (.bpX f addr) s = .next t ∧ JumpedTo s t (s.ip.val + addr.val)) ∧
      (s.flag f ≠ .pos → exec (.bpX f addr) s = .next s)) ∧
    ((s.flag f = .neg → ∃ t, exec (.bnX f addr) s = .next t ∧ JumpedTo s t (s.ip.val + addr.val)) ∧
      (s.flag f ≠ .neg → exec (.bnX f addr) s = .next s))

/-- szX, spX and snX pass over one word exactly when the flag is 0, +1 or -1. For every flag: when it has the tested value,
IP moves 3 further, wrapped to 12 trits, and nothing else changes; otherwise the state is unchanged. The words are those of
SPEC-ENC-1, the spec's own decision D1 (assumption log 6). The IP a skip moves from is the spec's own decision D2, and its
wrap at the top of memory D28 (92_eei_decisions.md). -/
def Obligations.ConditionalSkips : Prop :=
  ∀ (s : State) (f : Flag),
    (Spells (word6 .zero .G .zero .zero .zero f.digit) (.szX f) ∧
      (s.flag f = .zero → ∃ t, exec (.szX f) s = .next t ∧ WrapOf 12 (s.ip.val + 3) t.ip ∧ Keeps s t [] [] ∧ SameMem s t) ∧
      (s.flag f ≠ .zero → exec (.szX f) s = .next s)) ∧
    (Spells (word6 .zero .H .zero .zero .zero f.digit) (.spX f) ∧
      (s.flag f = .pos → ∃ t, exec (.spX f) s = .next t ∧ WrapOf 12 (s.ip.val + 3) t.ip ∧ Keeps s t [] [] ∧ SameMem s t) ∧
      (s.flag f ≠ .pos → exec (.spX f) s = .next s)) ∧
    (Spells (word6 .zero .I .zero .zero .zero f.digit) (.snX f) ∧
      (s.flag f = .neg → ∃ t, exec (.snX f) s = .next t ∧ WrapOf 12 (s.ip.val + 3) t.ip ∧ Keeps s t [] [] ∧ SameMem s t) ∧
      (s.flag f ≠ .neg → exec (.snX f) s = .next s))

/-- tbX adds the first, second or third register to IP as the flag is -1, 0 or +1. For every flag and every three registers,
IP becomes the aligned sum of the following instruction's address and the register the flag chooses, and nothing else
changes. The words are those of SPEC-ENC-1, the spec's own decision D1 (assumption log 6). The IP of a target is the spec's
own decision D2, and the wrap of the target D9 (92_eei_decisions.md, assumption log 26). -/
def Obligations.ThreeWayBranch : Prop :=
  ∀ (s : State) (a b c : Reg) (f : Flag), Spells (word6 .zero .F a b c f.digit) (.tbX a b c f) ∧
    ∃ t, exec (.tbX a b c f) s = .next t ∧ (s.flag f = .neg → JumpedTo s t (s.ip.val + (s.get a).val)) ∧
      (s.flag f = .zero → JumpedTo s t (s.ip.val + (s.get b).val)) ∧
      (s.flag f = .pos → JumpedTo s t (s.ip.val + (s.get c).val))

/-- cal, car and caa push the following instruction's address and branch to the aligned target. The word pushed is IP with
high hexad 0, at rs, which moves down by 3; the target is the immediate, IP plus the displacement, or the register as it was
before the push (relative to IP only under CAA_RELATIVE). Nothing else changes. Rests on the spec's own decisions D2, D12 and
D30 (92_eei_decisions.md). The switch is that of assumption log 18. -/
def Obligations.CallsPushAndBranch : Prop :=
  ∀ (s : State) (a : Reg) (addr : Addr), ∃ v : Word, v.val = s.ip.val ∧
    (∃ t, exec (.cal addr) s = .next t ∧ Pushed s t v ∧ AlignOf addr.val t.ip) ∧
    (∃ t, exec (.car addr) s = .next t ∧ Pushed s t v ∧
      AlignOf (s.ip.val + addr.val) t.ip) ∧
    (∃ t, exec (.caa a) s = .next t ∧ Pushed s t v ∧
      AlignOf (if s.params.caaRelative = true then s.ip.val + (s.get a).val else (s.get a).val) t.ip)

/-- ret pops a word and branches to its aligned address. IP becomes the aligned address in the word at rs + 3 (at rs under
the literal POP_ORDER), high hexad ignored; rs is 3 higher; memory and everything else are unchanged. Rests on the spec's own
decision D26 (92_eei_decisions.md). The switch is that of assumption log 17. -/
def Obligations.ReturnPopsAndBranches : Prop :=
  ∀ s : State, ∃ (t : State) (p : Addr), exec .ret s = .next t ∧ PopFrom s p ∧ AlignOf (s.readWord p).val t.ip ∧
      WrapOf 18 ((s.get .s).val + 3) (t.get .s) ∧ Keeps s t [.s] [] ∧ SameMem s t

/-- zfX, pfX and nfX write exactly the flag they name, whatever the Protect flag holds. In every state, Protect = +1
included, the named flag receives 0, +1 or -1; the other 17 trits of CR1 and everything else are unchanged. Rests on the
spec's own decision D17 (92_eei_decisions.md). -/
def Obligations.FlagSetting : Prop :=
  ∀ (s : State) (f : Flag),
    (∃ t, exec (.zfX f) s = .next t ∧
      t.flag f = .zero ∧ KeepsAll s t [] [f]) ∧
    (∃ t, exec (.pfX f) s = .next t ∧
      t.flag f = .pos ∧ KeepsAll s t [] [f]) ∧
    (∃ t, exec (.nfX f) s = .next t ∧
      t.flag f = .neg ∧ KeepsAll s t [] [f])

/-- bin leaves the low 18 bits of the source as trits 0 and +1. Trit i of the result is bit i of the source's value, for a
negative value bit i of its two's complement under the default BIN_NEGATIVE; no trit of the result is -1 under any setting.
Nothing but the destination changes. Rests on the spec's own decision D20 (92_eei_decisions.md). The switch is that of
assumption log 21. -/
def Obligations.BinConverts : Prop :=
  ∀ (s : State) (a b : Reg), ∃ (t : State) (w : Word), exec (.bin a b) s = .next t ∧ Wrote t b w ∧ (∀ i < 18, w.trit i ≠ .neg) ∧
      (0 ≤ (s.get a).val ∨ s.params.binNegative = .twosComplement →
        ∀ i < 18, (w.trit i).toInt = (s.get a).val / 2 ^ i % 2) ∧ KeepsAll s t [b] []

/-- tri turns a binary-coded word into the number its bits denote, and bin and tri undo each other. For a source without a
trit of -1 the destination receives the sum of 2^i over the positions i with trit +1, and nothing else changes. For a value
between 0 and 262143, bin into b and tri from b into c leave the value in c; for a binary-coded word, tri into b and bin from
b into c leave the word in c (b and c not rz). A source with a trit of -1 is covered by UnspecifiedResultsStillComplete.
Rests on the spec's own decision D20 (92_eei_decisions.md). -/
def Obligations.TriConverts : Prop :=
  (∀ (s : State) (a b : Reg), (∀ i < 18, (s.get a).trit i ≠ .neg) →
      ∃ (t : State) (w : Word), exec (.tri a b) s = .next t ∧ Wrote t b w ∧
        w.val = ∑ i ∈ Finset.range 18, ((s.get a).trit i).toInt * 2 ^ i ∧ KeepsAll s t [b] []) ∧
    ∀ (s : State) (a b c : Reg), b ≠ .z → c ≠ .z →
      (0 ≤ (s.get a).val → (s.get a).val < 262144 →
        ∃ t u, exec (.bin a b) s = .next t ∧ exec (.tri b c) t = .next u ∧ u.get c = s.get a) ∧
      ((∀ i < 18, (s.get a).trit i ≠ .neg) →
        ∃ t u, exec (.tri a b) s = .next t ∧ exec (.bin b c) t = .next u ∧ u.get c = s.get a)

/-- A number of N trits is the sum of its trits times powers of 3, and each integer of the range is one. For every N: a
number of N trits is the sum of t[i] * 3^i over its trits, every choice of N trits is a number's, and no other choice gives
the same number; the integers of N trits are those from -(3^N - 1)/2 to (3^N - 1)/2; the negative of a number has the negated
trits. The trits are -1, 0 and +1, a hexad is any integer from -364 to 364, and trit 0 of CR1 is Carry. -/
def Obligations.NumbersAreTheirTrits : Prop :=
  (∀ n : Nat,
      (∀ f : Nat → Trit, ∃ w : Bt n, w.val = ∑ i ∈ Finset.range n, (f i).toInt * 3 ^ i) ∧
      (∀ w : Bt n, w.val = ∑ i ∈ Finset.range n, (w.trit i).toInt * 3 ^ i) ∧
      (∀ (w : Bt n) (f : Nat → Trit), w.val = ∑ i ∈ Finset.range n, (f i).toInt * 3 ^ i → ∀ i < n, w.trit i = f i) ∧
      (∀ v : Int, (∃ w : Bt n, w.val = v) ↔ -((3 ^ n - 1) / 2) ≤ v ∧ v ≤ (3 ^ n - 1) / 2) ∧
      ∀ w x : Bt n, x.val = -w.val → ∀ i < n, (x.trit i).toInt = -(w.trit i).toInt) ∧
    (∀ v : Int, (∃ t : Trit, t.toInt = v) ↔ v = -1 ∨ v = 0 ∨ v = 1) ∧
    (∀ v : Int, (∃ h : Hexad, h.val = v) ↔ -364 ≤ v ∧ v ≤ 364) ∧
    ∀ s : State, s.cr1.word.trit 0 = s.flag .c

/-- fdr keeps the +1 trits, rdr the -1 trits, and the two results add up to the source. Each trit of fdr's result is +1 where
the source's is +1 and 0 elsewhere; each trit of rdr's is -1 where the source's is -1 and 0 elsewhere; the two results sum to
the source. Nothing but the destination changes. That the two results add up to the source is derived in R287. -/
def Obligations.DiodesKeepTritsOfOneSign : Prop :=
  ∀ (s : State) (a b : Reg), ∃ f r : Word, f.val + r.val = (s.get a).val ∧
    (∃ t, exec (.fdr a b) s = .next t ∧ Wrote t b f ∧
      (∀ i < 18, f.trit i = if (s.get a).trit i = .pos then .pos else .zero) ∧ KeepsAll s t [b] []) ∧
    (∃ t, exec (.rdr a b) s = .next t ∧ Wrote t b r ∧
      (∀ i < 18, r.trit i = if (s.get a).trit i = .neg then .neg else .zero) ∧ KeepsAll s t [b] [])

/-- int and inb log one read and store its answer, whatever it is. The log grows by one read event with the address, the
kind, the Binary flag and the answer; the destination receives the answer (rz discards it and the read is still logged); an
answer the environment has lined up is the one used. No flag, memory hexad or other register changes. Rests on the spec's own
decision D19 (92_eei_decisions.md). How answers are lined up is the model's own (assumption log 23). -/
def Obligations.IoReads : Prop :=
  ∀ (s : State) (a : Reg) (imm : Nonad),
    (∃ (t : State) (w : Word), exec (.int a imm) s = .next t ∧
      t.ioLog = s.ioLog ++ [.read imm .ternary (s.flag .b) w] ∧ Wrote t a w ∧
      (∀ x l, s.ioAnswers = x :: l → w = x ∧ t.ioAnswers = l) ∧ (s.ioAnswers = [] → t.ioAnswers = []) ∧
      OnlyRegs s t [a] ∧ OnlyFlags s t [] ∧ SameSys s t ∧ SameMem s t ∧ t.ip = s.ip ∧ t.pendingInts = s.pendingInts ∧
      t.params = s.params) ∧
    (∃ (t : State) (w : Word), exec (.inb a imm) s = .next t ∧
      t.ioLog = s.ioLog ++ [.read imm .binary (s.flag .b) w] ∧ Wrote t a w ∧
      (∀ x l, s.ioAnswers = x :: l → w = x ∧ t.ioAnswers = l) ∧ (s.ioAnswers = [] → t.ioAnswers = []) ∧
      OnlyRegs s t [a] ∧ OnlyFlags s t [] ∧ SameSys s t ∧ SameMem s t ∧ t.ip = s.ip ∧ t.pendingInts = s.pendingInts ∧
      t.params = s.params)

/-- out and oub log one write of the unconverted register and change nothing else. The log grows by one write event with the
address, the kind, the register's word as it is and the Binary flag. No register, flag, memory hexad or IP changes. Rests on
the spec's own decision D19 (92_eei_decisions.md). -/
def Obligations.IoWrites : Prop :=
  ∀ (s : State) (a : Reg) (imm : Nonad),
    (∃ t, exec (.out a imm) s = .next t ∧
      t.ioLog = s.ioLog ++ [.write imm .ternary (s.get a) (s.flag .b)] ∧ OnlyRegs s t [] ∧ OnlyFlags s t [] ∧ SameSys s t ∧
      SameMem s t ∧ t.ip = s.ip ∧ t.ioAnswers = s.ioAnswers ∧ t.pendingInts = s.pendingInts ∧ t.params = s.params) ∧
    (∃ t, exec (.oub a imm) s = .next t ∧
      t.ioLog = s.ioLog ++ [.write imm .binary (s.get a) (s.flag .b)] ∧ OnlyRegs s t [] ∧ OnlyFlags s t [] ∧ SameSys s t ∧
      SameMem s t ∧ t.ip = s.ip ∧ t.ioAnswers = s.ioAnswers ∧ t.pendingInts = s.pendingInts ∧ t.params = s.params)

/-- sys saves IP in rr and branches through the table at rv; srt branches to rr. sys n leaves the following instruction's
address in rr and the aligned low 12 trits of the word at rv + 3n in IP, whatever the Protect and Absolute flags hold; srt
leaves the aligned low 12 trits of rr in IP. Nothing else changes. Rests on the spec's own decisions D2 and D13
(92_eei_decisions.md). -/
def Obligations.SystemCallAndReturn : Prop :=
  ∀ (s : State) (imm : Hexad),
    (∃ (t : State) (e : Addr), exec (.sys imm) s = .next t ∧
      (t.get .r).val = s.ip.val ∧ WrapOf 12 ((s.get .v).val + 3 * imm.val) e ∧ AlignOf (s.readWord e).val t.ip ∧
      Keeps s t [.r] [] ∧ SameMem s t) ∧
    (∃ t, exec .srt s = .next t ∧ JumpedTo s t (s.get .r).val)

/-- brk raises exception 1; und, ldx and stx raise exception 4; nothing else happens. In every state, brk enters exception 1
and every word of und, ldx or stx enters exception 4: CR3 holds the saved IP, IP the aligned vector at CR2 + 3n, and no
register, flag, memory hexad or other state changes. Rests on the spec's own decisions D1 and D14 (92_eei_decisions.md). The
switch is that of assumption log 20. -/
def Obligations.DeliberateExceptions : Prop :=
  ∀ (s : State) (rest : Bt 15),
    (∃ t, exec .brk s = .next t ∧ Raised s t 1) ∧
    (∃ t, exec (.und rest) s = .next t ∧ Raised s t 4) ∧
    (∃ t, exec (.ldx rest) s = .next t ∧ Raised s t 4) ∧
    (∃ t, exec (.stx rest) s = .next t ∧ Raised s t 4)

/-- lsr reads any of the nine system registers, or raises #PV under Protect = +1. Under Protect = +1 exception 2 is raised
and nothing is read. Otherwise the destination receives the register's 18 trits: IP for CR0, and for CR1 the flags C, S, D,
A, B, T, I, P at trits 0, 1, 2, 5, 6, 7, 8, 9 and the reserved trits at the others. Nothing else changes. Rests on the spec's
own decision D14 (92_eei_decisions.md). The switch is that of assumption log 20. -/
def Obligations.SystemRegisterReads : Prop :=
  ∀ (s : State) (k : SysReg) (a : Reg), (s.flag .p = .pos → ∃ t, exec (.lsr k a) s = .next t ∧ Raised s t 2) ∧
    (s.flag .p ≠ .pos → ∃ (t : State) (w : Word), exec (.lsr k a) s = .next t ∧ Wrote t a w ∧ KeepsAll s t [a] [] ∧
      (k = .cr0 → w.val = s.ip.val) ∧ (k = .cr1 → ∀ i < 18, w.trit i = s.cr1.tritAt i) ∧
      (k = .cr1 → w.trit 0 = s.flag .c ∧ w.trit 1 = s.flag .s ∧ w.trit 2 = s.flag .d ∧ w.trit 5 = s.flag .a ∧
        w.trit 6 = s.flag .b ∧ w.trit 7 = s.flag .t ∧ w.trit 8 = s.flag .i ∧ w.trit 9 = s.flag .p) ∧
      (k = .cr2 → w = s.cr2) ∧
      (k = .cr3 → w = s.cr3) ∧ (k = .cr4 → w = s.cr4) ∧ (k = .dr1 → w = s.dr1) ∧ (k = .dr2 → w = s.dr2) ∧
      (k = .dr3 → w = s.dr3) ∧ (k = .dr4 → w = s.dr4))

/-- ssr writes a system register, which lsr reads back; CR0 only under Protect = -1; otherwise #PV. Under Protect = +1, and
for CR0 under Protect = 0, exception 2 is raised and nothing is written. CR0 under Protect = -1 receives the aligned address;
every other register receives all 18 trits: CR1 the flags C, S, D, A, B, T, I, P from trits 0, 1, 2, 5, 6, 7, 8, 9, and its
reserved trits. What ssr writes to CR1, reserved trits included, lsr reads back unless the word itself sets Protect to +1.
Every user register, every other system register, memory and, but for CR0, IP are unchanged. Rests on the spec's own
decisions D14, D17 and D24 (92_eei_decisions.md). The switch is that of assumption log 20. -/
def Obligations.SystemRegisterWrites : Prop :=
  ∀ (s : State) (a b : Reg) (k : SysReg),
    (s.flag .p = .pos ∨ (k = .cr0 ∧ s.flag .p = .zero) → ∃ t, exec (.ssr a k) s = .next t ∧ Raised s t 2) ∧
    (s.flag .p ≠ .pos → (k = .cr0 → s.flag .p = .neg) → ∃ t, exec (.ssr a k) s = .next t ∧
      (k = .cr0 → AlignOf (s.get a).val t.ip) ∧ (k ≠ .cr0 → t.ip = s.ip) ∧
      (k = .cr1 → ∀ i < 18, t.cr1.tritAt i = (s.get a).trit i) ∧
      (k = .cr1 → t.flag .c = (s.get a).trit 0 ∧ t.flag .s = (s.get a).trit 1 ∧ t.flag .d = (s.get a).trit 2 ∧
        t.flag .a = (s.get a).trit 5 ∧ t.flag .b = (s.get a).trit 6 ∧ t.flag .t = (s.get a).trit 7 ∧
        t.flag .i = (s.get a).trit 8 ∧ t.flag .p = (s.get a).trit 9) ∧
      (k ≠ .cr1 → OnlyFlags s t []) ∧
      t.cr2 = (if k = .cr2 then s.get a else s.cr2) ∧ t.cr3 = (if k = .cr3 then s.get a else s.cr3) ∧
      t.cr4 = (if k = .cr4 then s.get a else s.cr4) ∧ t.dr1 = (if k = .dr1 then s.get a else s.dr1) ∧
      t.dr2 = (if k = .dr2 then s.get a else s.dr2) ∧ t.dr3 = (if k = .dr3 then s.get a else s.dr3) ∧
      t.dr4 = (if k = .dr4 then s.get a else s.dr4) ∧ OnlyRegs s t [] ∧ SameMem s t ∧ SameWorld s t) ∧
    (s.flag .p ≠ .pos → (s.get a).trit 9 ≠ .pos → b ≠ .z →
      ∃ t u, exec (.ssr a .cr1) s = .next t ∧ exec (.lsr .cr1 b) t = .next u ∧ u.get b = s.get a)

/-- IP always has lowest trit -1: it holds after reset and every step keeps it. IP starts a word after reset, and from every
state whose IP starts a word, whatever the step does (an interrupt, a breakpoint, an undefined word, any instruction), the
next IP starts a word. The addresses that start a word are 3k - 1 for k from -88573 to 88573; the three hexads of a word have
lowest trits -1, 0 and +1, and location 0 is in the middle of the word at -1. -/
def Obligations.IpAlwaysStartsAWord : Prop :=
  Aligned State.reset.ip ∧ (∀ s t : State, Aligned s.ip → step s = .next t → Aligned t.ip) ∧
    (∀ a : Addr, Aligned a ↔ ∃ k : Int, -88573 ≤ k ∧ k ≤ 88573 ∧ a.val = 3 * k - 1) ∧
    (∀ a : Addr, Aligned a → (Bt.plus a 1).trit 0 = .zero ∧ (Bt.plus a 2).trit 0 = .pos) ∧
    ∀ a : Addr, a.val = -1 → Aligned a ∧ (Bt.plus a 1).val = 0

/-- An enabled pending external interrupt is taken before anything else of the step. When the Interrupt flag is +1 and
interrupts are pending, the step enters the one the environment has put first, saves the address of the instruction not yet
executed, clears that pending signal and does nothing else, whatever the Trap flag, the debug registers and the word at IP
are. How the pending signals are held is the model's choice (assumption log 12). Rests on the spec's own decisions D16 and
D27 (92_eei_decisions.md). -/
def Obligations.InterruptIsTakenFirst : Prop :=
  ∀ (s : State) (n : Int) (rest : List Int), s.flag .i = .pos → s.pendingInts = n :: rest →
    ∃ t, step s = .next t ∧ Entered s t n s.ip ∧ t.pendingInts = rest

/-- With Trap = +1 and IP equal to a debug register, the step raises #BK and saves that IP. When no interrupt is taken, Trap
is +1 and IP as a word equals DR1, DR2, DR3 or DR4, the step enters exception 1 with the breakpointed instruction's own
address in CR3 and runs nothing, under every setting of EXC_SAVED_IP; Trap is not cleared. Rests on the spec's own decisions
D14 and D15 (92_eei_decisions.md). -/
def Obligations.BreakpointStopsBeforeTheFetch : Prop :=
  ∀ s : State, NoInterrupt s → s.flag .t = .pos →
    (s.ip.val = s.dr1.val ∨ s.ip.val = s.dr2.val ∨ s.ip.val = s.dr3.val ∨ s.ip.val = s.dr4.val) →
    ∃ t, step s = .next t ∧ Entered s t 1 s.ip ∧ t.pendingInts = s.pendingInts

/-- A word that spells no instruction raises #OP with IP already advanced. When no interrupt is taken, no breakpoint fires
and the word at IP decodes to no instruction under the parameter ENCODING, the step enters exception 4 from the state whose
IP has been advanced, and nothing else happens. Rests on the spec's own decisions D1 and D14 (92_eei_decisions.md). The
switch is that of assumption log 20. -/
def Obligations.UndefinedWordRaises : Prop :=
  ∀ (s : State) (e : DecodeError), NoInterrupt s → NoBreakpoint s → s.params.encoding.decode (s.readWord s.ip) = .error e →
    ∃ t, step s = .next t ∧ Raised { s with ip := Bt.plus s.ip 3 } t 4

/-- A word stored where the next fetch reads is the instruction the very next step runs. When str stores a word at the
address of the following instruction and that word decodes to i under the parameter ENCODING, the next step runs i (under the
check of INVALID_FLAG, which by default is empty), provided no interrupt is taken and no breakpoint fires. Rests on the
spec's own decisions D18 and D23 (92_eei_decisions.md). -/
def Obligations.StoredInstructionIsFetched : Prop :=
  ∀ (s : State) (a : Reg) (addr : Addr) (i : Instr), s.eaAbs addr = s.ip → NoInterrupt s → NoBreakpoint s →
    s.params.encoding.decode (s.get a) = .ok i →
    ∃ t u : State, exec (.str a addr) s = .next t ∧ u = { t with ip := Bt.plus s.ip 3 } ∧
      step t = checkFlags i u (exec i u) ∧ (s.params.invalidFlag = [] → step t = exec i u)

/-- What each pseudo-instruction and each instruction inserts stands at the current location, in order. An operand is a
number or an identifier whose value is substituted. dh inserts the given hexads; dw the given words, each low, middle and
high hexad, and word j stands at 3j above the location; db b the word minus the sum of bit(b, i) * 3^i; ds the character
codes, one hexad each; zh n and zw n n hexads or words of zero; an instruction a word of the ENCODING, which decodes to it
but for the trits of ldx, stx and und that are not examined; under SPEC-ENC-1 every instruction has one, and und is %z00000.
The location moves past them, wrapped, and every other hexad reads as before. ad moves the location and eq gives an
identifier its value, which dh X, or the immediate of an instruction, then has; both insert nothing. A program may use an
identifier before its eq, and before the eq of what that names. Rests on the spec's own decisions D1 and D31
(92_eei_decisions.md). That the location wraps at the top of memory, that an instruction is placed at an unaligned location,
that a later eq hides an earlier one, and how constants are gathered are the model's choice (assumption log 24), as are the
word taken from several under a table (assumption log 6) and, DEDUCED, the word of ldx and stx (assumption log 29). -/
def Obligations.AssembledWordsStandWhereTheyAreEmitted : Prop :=
  ∀ (s : Asm) (m : State) (n : AsmOperand) (ns : List AsmOperand),
    (∀ hs : List Hexad, ns.map s.value = hs.map (fun h => some h.val) → Laid s (s.directive (.dh ns)) hs) ∧
    (∀ ws : List Word, ns.map s.value = ws.map (fun w => some w.val) →
      Laid s (s.directive (.dw ns)) (ws.flatMap hexadsOf) ∧
      ∀ t, s.directive (.dw ns) = some t → ws.length ≤ 177147 → ∀ (j : Nat) (w : Word), ws[j]? = some w →
        (m.launch t).readWord (Bt.plus s.loc (3 * j)) = w) ∧
    (∀ b : Nat, b < 256 → s.value n = some (b : Int) → ∃ w : Word,
      w.val = -∑ k ∈ Finset.range 8, (((b / 2 ^ k % 2 : Nat) : Int) * 3 ^ k) ∧ Laid s (s.directive (.db n)) (hexadsOf w) ∧
        ∀ t, s.directive (.db n) = some t → (m.launch t).readWord s.loc = w) ∧
    (∀ codes : List (Fin 128), ∃ hs : List Hexad, hs.map Bt.val = codes.map (fun c => (c.val : Int)) ∧
      Laid s (s.directive (.ds codes)) hs) ∧
    (∀ (k : Nat) (z : Hexad), s.value n = some (k : Int) → z.val = 0 →
      Laid s (s.directive (.zh n)) (List.replicate k z) ∧ Laid s (s.directive (.zw n)) (List.replicate (3 * k) z)) ∧
    (∀ (i : Instr) (w : Word), s.encoding.encode i = some w → Laid s (s.instr i) (hexadsOf w) ∧
      (∃ j, s.encoding.decode w = .ok j ∧ j.written = i.written) ∧
      ∀ t, s.instr i = some t → (m.launch t).readWord s.loc = w ∧
        ((∀ r, i ≠ .ldx r ∧ i ≠ .stx r ∧ i ≠ .und r) → s.encoding.decode w = .ok i)) ∧
    (s.encoding = .specEnc1 → (∀ i : Instr, ∃ w, s.encoding.encode i = some w) ∧
      ∀ r : Bt 15, Laid s (s.instr (.und r)) (hexadsOf (word6 .z .zero .zero .zero .zero .zero))) ∧
    (∀ a : Addr, s.value n = some a.val → s.directive (.ad n) = some { s with loc := a }) ∧
    (∀ v, s.value (.lit v) = some v) ∧
    (∀ (x : String) (v : Int), s.value n = some v → ∃ t, s.directive (.eq x n) = some t ∧ t.loc = s.loc ∧
      t.image = s.image ∧ t.encoding = s.encoding ∧ t.value (.name x) = some v ∧
      ∀ y, y ≠ x → t.value (.name y) = s.value (.name y)) ∧
    ∀ (x : String) (a b : Reg) (h h' : Hexad) (j j' : Nonad) (k k' : Addr),
      (s.value (.name x) = some h.val → s.line (.instrOf (.adi a b h') x) = s.instr (.adi a b h)) ∧
      (s.value (.name x) = some j.val → s.line (.instrOf (.pad a j') x) = s.instr (.pad a j)) ∧
      (s.value (.name x) = some k.val → s.line (.instrOf (.bra k') x) = s.instr (.bra k)) ∧
      ∀ y, y ≠ x → s.lookup x = none → s.lookup y = none → s.value n = some h.val →
        ∃ t, s.assemble [.directive (.dh [.name x]), .directive (.eq x (.name y)), .directive (.eq y n)] = some t ∧
          t.image.read s.loc = h

/-- Each of the 95 instructions, with every operand, is spelled by the digits of its table row. The selector digits of the
flags C, S, D, A, B, T, I, P are 0, A, B, E, F, G, H, I, and those of CR0 to CR4 and DR1 to DR4 are 0, A, B, C, D and n, o,
p, q. For every register, flag, system register and immediate: the word made of the digits of the instruction's row in the
tables of SPEC-ENC-1 decodes to that instruction and is what the encoder gives for it. SPEC-ENC-1 is the spec's own encoding,
its decision D1 (assumption log 6). -/
def Obligations.InstructionsSpellTheirTableWords : Prop :=
  (Flag.c.digit = .zero ∧ Flag.s.digit = .A ∧ Flag.d.digit = .B ∧ Flag.a.digit = .E ∧ Flag.b.digit = .F ∧
      Flag.t.digit = .G ∧ Flag.i.digit = .H ∧ Flag.p.digit = .I) ∧
    (SysReg.cr0.digit = .zero ∧ SysReg.cr1.digit = .A ∧ SysReg.cr2.digit = .B ∧ SysReg.cr3.digit = .C ∧
      SysReg.cr4.digit = .D ∧ SysReg.dr1.digit = .n ∧ SysReg.dr2.digit = .o ∧ SysReg.dr3.digit = .p ∧
      SysReg.dr4.digit = .q) ∧
  ∀ (a b c : Reg) (f : Flag) (q : SysReg) (h : Hexad) (j : Nonad) (k : Addr) (x : Bt 15),
    (∀ p ∈ ([(word6 .zero .zero .zero .zero .zero .zero, .nop), (word6 .zero .A .zero .zero .zero .zero, .brk),
      (word6 .zero .B .zero .zero .zero .zero, .ret), (word6 .zero .C .zero .zero .zero .zero, .srt),
      (word6 .zero .D a .zero .zero .zero, .brr a), (word6 .zero .E a .zero .zero .zero, .caa a),
      (word6 .zero .F a b c f.digit, .tbX a b c f), (word6 .zero .G .zero .zero .zero f.digit, .szX f),
      (word6 .zero .H .zero .zero .zero f.digit, .spX f), (word6 .zero .I .zero .zero .zero f.digit, .snX f),
      (word6 .zero .J .zero .zero .zero f.digit, .zfX f), (word6 .zero .K .zero .zero .zero f.digit, .pfX f),
      (word6 .zero .L .zero .zero .zero f.digit, .nfX f), (word6 .zero .M q.digit a .zero .zero, .lsr q a),
      (word6 .zero .n a q.digit .zero .zero, .ssr a q), (word6 .zero .o a .zero .zero .zero, .psh a),
      (word6 .zero .p a .zero .zero .zero, .pop a), (word6 .A .A a b c .zero, .add a b c),
      (word6 .A .B a b c .zero, .adc a b c), (word6 .A .C a b c .zero, .sub a b c),
      (word6 .A .D a b c .zero, .sbc a b c), (word6 .A .E a b c .zero, .mul a b c),
      (word6 .A .F a b c .zero, .div a b c), (word6 .A .G a b .zero .zero, .cmp a b),
      (word6 .A .H a b c .zero, .min a b c), (word6 .A .I a b c .zero, .max a b c),
      (word6 .A .J a b c .zero, .teq a b c), (word6 .A .K a b c .zero, .tem a b c),
      (word6 .A .L a .zero .zero .zero, .sti a), (word6 .A .M a .zero .zero .zero, .pti a),
      (word6 .A .n a .zero .zero .zero, .nti a), (word6 .A .o a b .zero .zero, .bin a b),
      (word6 .A .p a b .zero .zero, .tri a b), (word6 .A .q a b .zero .zero, .fdr a b),
      (word6 .A .r a b .zero .zero, .rdr a b), (word6 .B .A a b .zero .zero, .lda a b),
      (word6 .B .B a b .zero .zero, .lal a b), (word6 .B .C a b .zero .zero, .lam a b),
      (word6 .B .D a b .zero .zero, .lah a b), (word6 .B .E a b .zero .zero, .sta a b),
      (word6 .B .F a b .zero .zero, .sal a b), (word6 .B .G a b .zero .zero, .sam a b),
      (word6 .B .H a b .zero .zero, .sah a b), (word6 .B .I a b .zero .zero, .mov a b),
      (word6 .B .J a b .zero .zero, .xch a b), (word6 .B .K a .zero .zero .zero, .srz a),
      (word6 .B .L a .zero .zero .zero, .srp a), (word6 .B .M a .zero .zero .zero, .srn a),
      (wordI .C .A a b h, .adi a b h), (wordI .C .B a b h, .sbi a b h), (wordI .C .C a b h, .mli a b h),
      (wordI .C .D a b h, .dvi a b h), (wordI .C .E a .zero h, .cmi a h), (wordI .C .F a .zero h, .shl a h),
      (wordI .C .G a .zero h, .shr a h), (wordI .C .H a .zero h, .rol a h), (wordI .C .I a .zero h, .ror a h),
      (wordI .C .J a .zero h, .rcl a h), (wordI .C .K a .zero h, .rcr a h), (wordI .C .L a .zero h, .ldi a h),
      (wordI .C .M a .zero h, .lil a h), (wordI .C .n a .zero h, .lim a h), (wordI .C .o a .zero h, .lih a h),
      (wordI .C .p a .zero h, .ldn a h), (wordI .C .q a .zero h, .stn a h), (wordI .C .r a .zero h, .bri a h),
      (wordI .C .s .zero .zero h, .brs h), (wordI .C .t .zero .zero h, .sys h), (wordW .D .A a j, .pad a j),
      (wordW .D .B a j, .psb a j), (wordW .D .C a j, .pmu a j), (wordW .D .D a j, .pdv a j),
      (wordW .D .E a j, .int a j), (wordW .D .F a j, .inb a j), (wordW .D .G a j, .out a j),
      (wordW .D .H a j, .oub a j), (wordA .E a k, .ldr a k), (wordA .F a k, .ldl a k), (wordA .G a k, .ldm a k),
      (wordA .H a k, .ldh a k), (wordA .I a k, .str a k), (wordA .J a k, .stl a k), (wordA .K a k, .stm a k),
      (wordA .L a k, .sth a k), (wordA .M .zero k, .lad k), (wordA .n .zero k, .bra k), (wordA .o .zero k, .brl k),
      (wordA .p .zero k, .cal k), (wordA .q .zero k, .car k), (wordA .r f.digit k, .bzX f k),
      (wordA .s f.digit k, .bpX f k), (wordA .t f.digit k, .bnX f k), (wordX .x x, .ldx x), (wordX .y x, .stx x),
      (wordX .z x, .und x)] : List (Word × Instr)), Spells p.1 p.2)

/-- Decoding the encoding of any instruction gives the instruction back. For every instruction with every operand at every
value its field admits, decode (encode i) is i. SPEC-ENC-1 is the spec's own encoding (assumption log 6). -/
def Obligations.DecodeOfEncode : Prop :=
  ∀ i : Instr, decode (encode i) = .ok i

/-- Encoding the instruction a word decodes to gives the word back. For every word that decodes, the encoding of its
instruction is the word, so no two words spell one instruction. SPEC-ENC-1 is the spec's own encoding (assumption log 6);
that ldx, stx and und carry the trits they do not examine is the model's choice (assumption log 11). -/
def Obligations.EncodeOfDecode : Prop :=
  ∀ (w : Word) (i : Instr), decode w = .ok i → encode i = w

/-- Every step keeps IP aligned, the memory canonical and the pending interrupts legal. From every state that meets the
invariant, whatever the step does (an interrupt, a breakpoint, an undefined word, any instruction), the next state meets it.
The canonical form of the memory is the model's own (assumption log 3). -/
def Obligations.EveryStepKeepsTheInvariant : Prop :=
  ∀ s t : State, s.Inv → step s = .next t → t.Inv

/-- From every state the step answers a next state: nothing stops this machine. For every state, reachable or not, the step
answers a next state, never a fault and never a refusal. That a multiply into ro, a count below zero and tri of a word with a
trit of -1 complete, where the spec gives no result (U5, U6, U10), is the model's choice (assumption log 8, 9, 10). -/
def Obligations.EveryStepCompletes : Prop :=
  ∀ s : State, ∃ t, step s = .next t

/-- Every instruction leaves every user register but its destinations as it was, and rz reads 0. For every instruction and
every state, each user register outside the instruction's explicit and implicit destinations reads as before. For a multiply
into ro, a count below zero and tri of a word with a trit of -1, whose results the spec leaves open (U5, U6, U10), the frame
is the model's choice (assumption log 8, 9, 10). -/
def Obligations.InstructionsWriteOnlyTheirRegisters : Prop :=
  ∀ (i : Instr) (s t : State), exec i s = .next t → OnlyRegs s t i.destRegs ∧ (t.get .z).val = 0

/-- Every instruction leaves CR1 but its flags and the other system registers as they were. For every instruction but ssr to
CR1, every trit of CR1, reserved ones included, outside the flags the instruction writes is as before. CR2, CR4 and DR1 to
DR4 change only by ssr to that register, and CR3 only by an instruction that can raise an exception or by ssr to CR3. For a
multiply into ro, a count below zero and tri of a word with a trit of -1, whose results the spec leaves open (U5, U6, U10),
the frame is the model's choice (assumption log 8, 9, 10). Which flags an instruction writes is the spec's own decision D6
(92_eei_decisions.md). -/
def Obligations.InstructionsWriteOnlyTheirFlags : Prop :=
  ∀ (i : Instr) (s t : State), exec i s = .next t →
    ((∀ a, i ≠ .ssr a .cr1) → OnlyFlags s t i.destFlags) ∧ ((∀ a, i ≠ .ssr a .cr2) → t.cr2 = s.cr2) ∧
      (i.canRaise = false → t.cr3 = s.cr3) ∧ ((∀ a, i ≠ .ssr a .cr4) → t.cr4 = s.cr4) ∧
      ((∀ a, i ≠ .ssr a .dr1) → t.dr1 = s.dr1) ∧ ((∀ a, i ≠ .ssr a .dr2) → t.dr2 = s.dr2) ∧
      ((∀ a, i ≠ .ssr a .dr3) → t.dr3 = s.dr3) ∧ ((∀ a, i ≠ .ssr a .dr4) → t.dr4 = s.dr4)

/-- Every instruction leaves every hexad outside its store addresses as it was. For every instruction and every state, each
hexad of memory outside the addresses the instruction stores to, computed from the state before it by the functions the
meanings use, reads as before; most instructions store nowhere. For a multiply into ro, a count below zero and tri of a word
with a trit of -1, whose results the spec leaves open (U5, U6, U10), the frame is the model's choice (assumption log 8, 9,
10). -/
def Obligations.InstructionsStoreOnlyWhereTheySay : Prop :=
  ∀ (i : Instr) (s t : State), exec i s = .next t → ∀ x, x ∉ i.storeAddrs s → t.readHexad x = s.readHexad x

/-- IP is assigned only by control transfers, ssr and exceptions, and only I/O instructions log an event. For every
instruction and every state: outside the control transfers, ssr and the instructions that can raise an exception, IP stays at
the following instruction; the I/O log grows by exactly the instruction's event, if it has one; the pending interrupts and
the parameters stay as they are. For a multiply into ro, a count below zero and tri of a word with a trit of -1, whose
results the spec leaves open (U5, U6, U10), the frame is the model's choice (assumption log 8, 9, 10). -/
def Obligations.InstructionsMoveIpOnlyWhereTheySay : Prop :=
  ∀ (i : Instr) (s t : State), exec i s = .next t →
    (i.assignsIp = false → i.canRaise = false → t.ip = s.ip) ∧ t.ioLog = s.ioLog ++ i.ioEvents s ∧
      t.pendingInts = s.pendingInts ∧ t.params = s.params
end

