-- ==== Sys2Proof/Laws/Word.lean ====
section
/-!
SUPPORT. The laws of wrapping and of trits: what `bt`, `shiftOut`, `trit`, `ofTrits` and the hexads of a word give back.
-/

namespace Sys2Proof

@[simp] theorem half_one : half 1 = 1 := rfl
@[simp] theorem half_three : half 3 = 13 := rfl
@[simp] theorem half_six : half 6 = 364 := rfl
@[simp] theorem half_nine : half 9 = 9841 := rfl
@[simp] theorem half_twelve : half 12 = 265720 := rfl
@[simp] theorem half_fifteen : half 15 = 7174453 := rfl
@[simp] theorem half_eighteen : half 18 = 193710244 := rfl
@[simp] theorem pow3_zero : pow3 0 = 1 := rfl
@[simp] theorem pow3_one : pow3 1 = 3 := rfl
@[simp] theorem pow3_three : pow3 3 = 27 := rfl
@[simp] theorem pow3_six : pow3 6 = 729 := rfl
@[simp] theorem pow3_nine : pow3 9 = 19683 := rfl
@[simp] theorem pow3_twelve : pow3 12 = 531441 := rfl
@[simp] theorem pow3_fifteen : pow3 15 = 14348907 := rfl
@[simp] theorem pow3_eighteen : pow3 18 = 387420489 := rfl

/-- `pow3` is the power of 3 the spec writes. -/
theorem pow3_eq_pow (n : Nat) : pow3 n = 3 ^ n := by
  induction n with
  | zero => rfl
  | succ n ih => simp only [pow3, ih, pow_succ]; ring

theorem pow3_add (a b : Nat) : pow3 (a + b) = pow3 a * pow3 b := by
  rw [pow3_eq_pow, pow3_eq_pow, pow3_eq_pow, pow_add]

theorem half_add (a b : Nat) : half (a + b) = half a + pow3 a * half b := by
  have h1 := pow3_eq_half (a + b)
  have h2 := pow3_eq_half a
  have h3 := pow3_eq_half b
  rw [pow3_add, h2, h3] at h1
  rw [h2]; linarith

@[ext] theorem Bt.ext {n : Nat} {a b : Bt n} (h : a.val = b.val) : a = b := by
  cases a; cases b; cases h; rfl

/-- Wrapping leaves a value of the range alone. -/
theorem bt_of_range {n : Nat} {v : Int} (h1 : -half n ≤ v) (h2 : v ≤ half n) : bt n v = v := by
  have := pow3_eq_half n
  unfold bt
  rw [Int.emod_eq_of_lt] <;> omega

/-- R5, existence: a value is its wrapping plus a multiple of 3^n. -/
theorem eq_bt_add (n : Nat) (v : Int) : v = bt n v + pow3 n * shiftOut v n := by
  have := Int.emod_add_mul_ediv (v + half n) (pow3 n)
  unfold bt shiftOut; omega

/-- R5, uniqueness: the low `n` trits and the rest of a value are determined by their sum. -/
theorem bt_unique {n : Nat} {v x k : Int} (h1 : -half n ≤ x) (h2 : x ≤ half n) (h : v = x + pow3 n * k) :
    bt n v = x ∧ shiftOut v n = k := by
  have hp := pow3_eq_half n
  have h0 := pow3_pos n
  subst h
  unfold bt shiftOut
  have e : x + pow3 n * k + half n = (x + half n) + pow3 n * k := by ring
  rw [e, Int.add_mul_emod_self_left, Int.add_mul_ediv_left _ _ (ne_of_gt h0),
    Int.emod_eq_of_lt (by omega) (by omega), Int.ediv_eq_zero_of_lt (by omega) (by omega)]
  omega

theorem bt_add_mul (n : Nat) (v k : Int) : bt n (v + pow3 n * k) = bt n v := by
  have e := eq_bt_add n v
  exact (bt_unique (k := shiftOut v n + k) (neg_half_le_bt n v) (bt_le_half n v) (by rw [mul_add]; omega)).1

@[simp] theorem Bt.ofInt_val (n : Nat) (v : Int) : (Bt.ofInt n v).val = bt n v := rfl

@[simp] theorem toWord_val (v : Int) : (toWord v).val = bt 18 v := rfl

@[simp] theorem bt_val {n : Nat} (w : Bt n) : bt n w.val = w.val :=
  bt_of_range w.lo w.hi

@[simp] theorem bt_bt (n : Nat) (v : Int) : bt n (bt n v) = bt n v :=
  bt_of_range (neg_half_le_bt n v) (bt_le_half n v)

@[simp] theorem Bt.ofInt_self {n : Nat} (w : Bt n) : Bt.ofInt n w.val = w :=
  Bt.ext (bt_val w)

@[simp] theorem toWord_self (w : Word) : toWord w.val = w :=
  Bt.ofInt_self w

theorem Bt.ofInt_eq_of {n : Nat} {v : Int} {w : Bt n} (h : v = w.val) : Bt.ofInt n v = w := by
  subst h; exact Bt.ofInt_self w

/-- A 12-trit value read as a word is the same integer (R6). -/
@[simp] theorem toWord_addr_val (a : Addr) : (toWord a.val).val = a.val := by
  have h1 := a.lo; have h2 := a.hi
  simp only [half_twelve] at h1 h2
  rw [toWord_val, bt_of_range] <;> simp only [half_eighteen] <;> omega

/-- Wrapping twice, to a width and to a smaller one, is wrapping to the smaller. -/
theorem bt_bt_of_le {a b : Nat} (h : a ≤ b) (v : Int) : bt a (bt b v) = bt a v := by
  obtain ⟨c, rfl⟩ := Nat.exists_eq_add_of_le h
  have e := eq_bt_add (a + c) v
  rw [pow3_add] at e
  conv_rhs => rw [e, mul_assoc, bt_add_mul]

@[simp] theorem shiftOut_zero (v : Int) : shiftOut v 0 = v := by
  simp [shiftOut, half]

theorem shiftOut_shiftOut (v : Int) (a b : Nat) : shiftOut (shiftOut v a) b = shiftOut v (a + b) := by
  have e1 := eq_bt_add a v
  have e2 := eq_bt_add b (shiftOut v a)
  have l1 := neg_half_le_bt a v
  have l2 := bt_le_half a v
  have m1 := neg_half_le_bt b (shiftOut v a)
  have m2 := bt_le_half b (shiftOut v a)
  have hp := pow3_pos a
  refine (bt_unique (n := a + b) (x := bt a v + pow3 a * bt b (shiftOut v a)) ?_ ?_ ?_).2.symm
  · rw [half_add]; nlinarith
  · rw [half_add]; nlinarith
  · rw [pow3_add]
    calc v = bt a v + pow3 a * shiftOut v a := e1
      _ = bt a v + pow3 a * (bt b (shiftOut v a) + pow3 b * shiftOut (shiftOut v a) b) := by rw [← e2]
      _ = _ := by ring

/-! ## Trits -/

theorem Trit.toInt_range (t : Trit) : -1 ≤ t.toInt ∧ t.toInt ≤ 1 := by
  cases t <;> simp [Trit.toInt]

@[simp] theorem Trit.toInt_ofInt (v : Int) : (Trit.ofInt v).toInt = bt 1 v := by
  unfold Trit.ofInt bt
  simp only [half_one, pow3_one]
  split
  · simp only [Trit.toInt]; omega
  · split <;> simp only [Trit.toInt] <;> omega

@[simp] theorem Trit.ofInt_toInt (t : Trit) : Trit.ofInt t.toInt = t := by
  cases t <;> decide

theorem Trit.toInt_inj {a b : Trit} (h : a.toInt = b.toInt) : a = b := by
  cases a <;> cases b <;> simp [Trit.toInt] at h <;> rfl

theorem tritSum_range (n : Nat) (f : Nat → Trit) : -half n ≤ tritSum n f ∧ tritSum n f ≤ half n := by
  induction n with
  | zero => simp [tritSum, half]
  | succ n ih =>
    have ht := (f n).toInt_range
    have hp := pow3_eq_half n
    have h0 := pow3_pos n
    simp only [tritSum, half]
    constructor <;> nlinarith [ih.1, ih.2]

@[simp] theorem ofTrits_val (n : Nat) (f : Nat → Trit) : (ofTrits n f).val = tritSum n f :=
  bt_of_range (tritSum_range n f).1 (tritSum_range n f).2

/-- The trits of a value, summed, are its wrapping (R3). -/
theorem tritSum_tritAt (n : Nat) (v : Int) : tritSum n (tritAt v) = bt n v := by
  induction n with
  | zero => simp [tritSum, bt, half]
  | succ n ih =>
    have e := eq_bt_add n v
    have e1 := eq_bt_add 1 (shiftOut v n)
    have h1 := neg_half_le_bt 1 (shiftOut v n)
    have h2 := bt_le_half 1 (shiftOut v n)
    have l1 := neg_half_le_bt n v
    have l2 := bt_le_half n v
    have hp := pow3_pos n
    have hh := pow3_eq_half n
    simp only [half_one, pow3_one] at e1 h1 h2
    simp only [tritSum, ih, tritAt, Trit.toInt_ofInt]
    refine ((bt_unique (n := n + 1) (k := shiftOut (shiftOut v n) 1) ?_ ?_ ?_).1).symm
    · simp only [half]; nlinarith
    · simp only [half]; nlinarith
    · simp only [pow3]
      calc v = bt n v + pow3 n * shiftOut v n := e
        _ = bt n v + pow3 n * (bt 1 (shiftOut v n) + 3 * shiftOut (shiftOut v n) 1) := by rw [← e1]
        _ = _ := by ring

/-- A number is made of its trits. -/
theorem ofTrits_trit {n : Nat} (w : Bt n) : ofTrits n w.trit = w := by
  apply Bt.ext
  rw [ofTrits_val]
  show tritSum n (tritAt w.val) = w.val
  rw [tritSum_tritAt, bt_val]

theorem tritSum_congr {n : Nat} {f g : Nat → Trit} (h : ∀ i, i < n → f i = g i) : tritSum n f = tritSum n g := by
  induction n with
  | zero => rfl
  | succ n ih => simp only [tritSum, ih (fun i hi => h i (Nat.lt_succ_of_lt hi)), h n (Nat.lt_succ_self n)]

/-- Two numbers with the same trits are the same number (R3). -/
theorem Bt.ext_trit {n : Nat} {a b : Bt n} (h : ∀ i, i < n → a.trit i = b.trit i) : a = b := by
  rw [← ofTrits_trit a, ← ofTrits_trit b]
  exact Bt.ext (by rw [ofTrits_val, ofTrits_val, tritSum_congr h])

/-- Trit `i` of a sum of trits, whatever stands above them, is the trit put there. -/
theorem tritAt_tritSum_add {n i : Nat} (f : Nat → Trit) (k : Int) (hi : i < n) :
    tritAt (tritSum n f + pow3 n * k) i = f i := by
  induction n generalizing k with
  | zero => omega
  | succ n ih =>
    have e : tritSum (n + 1) f + pow3 (n + 1) * k = tritSum n f + pow3 n * ((f n).toInt + 3 * k) := by
      simp only [tritSum, pow3]; ring
    rw [e]
    by_cases h : i = n
    · subst h
      have r := tritSum_range i f
      have u := (bt_unique r.1 r.2 (rfl : tritSum i f + pow3 i * ((f i).toInt + 3 * k) = _)).2
      have t := (f i).toInt_range
      have u1 := (bt_unique (n := 1) (x := (f i).toInt) (k := k) (by simpa using t.1) (by simpa using t.2) rfl).1
      apply Trit.toInt_inj
      rw [tritAt, u, Trit.toInt_ofInt]
      simpa using u1
    · exact ih ((f n).toInt + 3 * k) (by omega)

/-- Trit `i` of the number built from `f` is `f i` (R3). -/
@[simp] theorem trit_ofTrits {n i : Nat} (f : Nat → Trit) (hi : i < n) : (ofTrits n f).trit i = f i := by
  have := tritAt_tritSum_add f 0 hi
  simpa [Bt.trit] using this

/-- A number of `n` trits has no trit at or above position `n`. -/
theorem trit_of_le {n i : Nat} (w : Bt n) (hi : n ≤ i) : w.trit i = .zero := by
  have h1 := w.lo
  have h2 := w.hi
  have hh : half n ≤ half i := by
    obtain ⟨c, rfl⟩ := Nat.exists_eq_add_of_le hi
    have := half_nonneg c
    have := pow3_pos n
    rw [half_add]; nlinarith
  have u := (bt_unique (n := i) (x := w.val) (k := 0) (v := w.val) (by omega) (by omega) (by ring)).2
  rw [Bt.trit, tritAt, u]; decide

/-! ## Hexads -/

theorem ofHexads_val (lo mid hi : Hexad) : (ofHexads lo mid hi).val = lo.val + 729 * mid.val + 531441 * hi.val := by
  have := lo.lo; have := lo.hi; have := mid.lo; have := mid.hi; have := hi.lo; have := hi.hi
  simp only [half_six] at *
  rw [ofHexads, Bt.ofInt_val, bt_of_range] <;> simp only [half_eighteen] <;> omega

/-- A word is made of its three hexads (R7). -/
theorem hexads_val (w : Word) :
    w.val = (w.hexad .low).val + 729 * (w.hexad .mid).val + 531441 * (w.hexad .high).val := by
  have e1 := eq_bt_add 6 w.val
  have e2 := eq_bt_add 6 (shiftOut w.val 6)
  have e3 : shiftOut (shiftOut w.val 6) 6 = shiftOut w.val 12 := shiftOut_shiftOut w.val 6 6
  have hl := w.lo
  have hh := w.hi
  have a1 := neg_half_le_bt 6 w.val
  have a2 := bt_le_half 6 w.val
  have b1 := neg_half_le_bt 6 (shiftOut w.val 6)
  have b2 := bt_le_half 6 (shiftOut w.val 6)
  simp only [pow3_six, half_eighteen, half_six] at *
  have e4 : bt 6 (shiftOut w.val 12) = shiftOut w.val 12 := by
    apply bt_of_range <;> simp only [half_six] <;> omega
  simp only [Bt.hexad, HexPart.pos, slice, Bt.ofInt_val, shiftOut_zero, e4]
  omega

@[simp] theorem ofHexads_hexad (w : Word) : ofHexads (w.hexad .low) (w.hexad .mid) (w.hexad .high) = w :=
  Bt.ext (by rw [ofHexads_val, ← hexads_val])

/-- Two sums of three hexads are equal only when the hexads are. -/
theorem hexads_unique {a b c x y z : Hexad}
    (h : a.val + 729 * b.val + 531441 * c.val = x.val + 729 * y.val + 531441 * z.val) : a = x ∧ b = y ∧ c = z := by
  have := a.lo; have := a.hi; have := b.lo; have := b.hi; have := c.lo; have := c.hi
  have := x.lo; have := x.hi; have := y.lo; have := y.hi; have := z.lo; have := z.hi
  simp only [half_six] at *
  refine ⟨Bt.ext ?_, Bt.ext ?_, Bt.ext ?_⟩ <;> omega

/-- The hexads of a word built from three hexads are those hexads (R61). -/
@[simp] theorem hexad_ofHexads (lo mid hi : Hexad) (p : HexPart) :
    (ofHexads lo mid hi).hexad p = match p with | .low => lo | .mid => mid | .high => hi := by
  have h := hexads_val (ofHexads lo mid hi)
  rw [ofHexads_val] at h
  obtain ⟨h1, h2, h3⟩ := hexads_unique h
  cases p
  · exact h1.symm
  · exact h2.symm
  · exact h3.symm

/-- `sethex` replaces one hexad and keeps the others (42_memory_ops.md). -/
theorem hexad_setHexad (w : Word) (p q : HexPart) (h : Hexad) :
    (w.setHexad p h).hexad q = if q = p then h else w.hexad q := by
  cases p <;> cases q <;> simp [Bt.setHexad]

/-! ## Alignment -/

/-- R8, R240: an aligned address has lowest trit -1, and the aligned word contains the address. -/
theorem align_spec (a : Int) :
    (align a).trit 0 = .neg ∧ (align a).val ≤ bt 12 a ∧ bt 12 a ≤ (align a).val + 2 := by
  have l := neg_half_le_bt 12 a
  have h := bt_le_half 12 a
  have e : (tritAt (bt 12 a) 0).toInt = bt 1 (bt 12 a) := by simp [tritAt]
  have e1 := eq_bt_add 1 (bt 12 a)
  have r1 := neg_half_le_bt 1 (bt 12 a)
  have r2 := bt_le_half 1 (bt 12 a)
  simp only [half_twelve, half_one, pow3_one] at *
  have v : (align a).val = bt 12 a - bt 1 (bt 12 a) - 1 := by
    rw [align, e, Bt.ofInt_val, bt_of_range] <;> simp only [half_twelve] <;> omega
  refine ⟨?_, by omega, by omega⟩
  apply Trit.toInt_inj
  have u := (bt_unique (n := 1) (v := (align a).val) (x := -1) (k := shiftOut (bt 12 a) 1) (by simp) (by simp)
    (by rw [v]; simp only [pow3_one]; omega)).1
  rw [Bt.trit, tritAt, shiftOut_zero, Trit.toInt_ofInt, u]; rfl

end Sys2Proof
end

