-- ==== Sys2Proof/Laws/State.lean ====
section
/-!
SUPPORT. What each update of the state leaves and what it sets, one lemma for each field and each update, and the accessors after
each update. Later proofs cite these and unfold no record update.
-/

namespace Sys2Proof.Machine

/-! ## `State.set` -/

@[simp] theorem State.set_regs (s : State) (r0 : Reg) (v : Word) : (s.set r0 v).regs = s.regs.write r0 v := rfl
@[simp] theorem State.set_ip (s : State) (r0 : Reg) (v : Word) : (s.set r0 v).ip = s.ip := rfl
@[simp] theorem State.set_cr1 (s : State) (r0 : Reg) (v : Word) : (s.set r0 v).cr1 = s.cr1 := rfl
@[simp] theorem State.set_flag (s : State) (r0 : Reg) (v : Word) (g : Flag) : (s.set r0 v).flag g = s.flag g := rfl
@[simp] theorem State.set_cr2 (s : State) (r0 : Reg) (v : Word) : (s.set r0 v).cr2 = s.cr2 := rfl
@[simp] theorem State.set_cr3 (s : State) (r0 : Reg) (v : Word) : (s.set r0 v).cr3 = s.cr3 := rfl
@[simp] theorem State.set_cr4 (s : State) (r0 : Reg) (v : Word) : (s.set r0 v).cr4 = s.cr4 := rfl
@[simp] theorem State.set_dr1 (s : State) (r0 : Reg) (v : Word) : (s.set r0 v).dr1 = s.dr1 := rfl
@[simp] theorem State.set_dr2 (s : State) (r0 : Reg) (v : Word) : (s.set r0 v).dr2 = s.dr2 := rfl
@[simp] theorem State.set_dr3 (s : State) (r0 : Reg) (v : Word) : (s.set r0 v).dr3 = s.dr3 := rfl
@[simp] theorem State.set_dr4 (s : State) (r0 : Reg) (v : Word) : (s.set r0 v).dr4 = s.dr4 := rfl
@[simp] theorem State.set_mem (s : State) (r0 : Reg) (v : Word) : (s.set r0 v).mem = s.mem := rfl
@[simp] theorem State.set_readHexad (s : State) (r0 : Reg) (v : Word) (x : Addr) : (s.set r0 v).readHexad x = s.readHexad x := rfl
@[simp] theorem State.set_readWord (s : State) (r0 : Reg) (v : Word) (x : Addr) : (s.set r0 v).readWord x = s.readWord x := rfl
@[simp] theorem State.set_ioLog (s : State) (r0 : Reg) (v : Word) : (s.set r0 v).ioLog = s.ioLog := rfl
@[simp] theorem State.set_ioAnswers (s : State) (r0 : Reg) (v : Word) : (s.set r0 v).ioAnswers = s.ioAnswers := rfl
@[simp] theorem State.set_pendingInts (s : State) (r0 : Reg) (v : Word) : (s.set r0 v).pendingInts = s.pendingInts := rfl
@[simp] theorem State.set_draws (s : State) (r0 : Reg) (v : Word) : (s.set r0 v).draws = s.draws := rfl
@[simp] theorem State.set_params (s : State) (r0 : Reg) (v : Word) : (s.set r0 v).params = s.params := rfl

/-! ## `State.put` -/

@[simp] theorem State.put_regs (s : State) (r0 : Reg) (v : Int) : (s.put r0 v).regs = s.regs.write r0 (toWord v) := rfl
@[simp] theorem State.put_ip (s : State) (r0 : Reg) (v : Int) : (s.put r0 v).ip = s.ip := rfl
@[simp] theorem State.put_cr1 (s : State) (r0 : Reg) (v : Int) : (s.put r0 v).cr1 = s.cr1 := rfl
@[simp] theorem State.put_flag (s : State) (r0 : Reg) (v : Int) (g : Flag) : (s.put r0 v).flag g = s.flag g := rfl
@[simp] theorem State.put_cr2 (s : State) (r0 : Reg) (v : Int) : (s.put r0 v).cr2 = s.cr2 := rfl
@[simp] theorem State.put_cr3 (s : State) (r0 : Reg) (v : Int) : (s.put r0 v).cr3 = s.cr3 := rfl
@[simp] theorem State.put_cr4 (s : State) (r0 : Reg) (v : Int) : (s.put r0 v).cr4 = s.cr4 := rfl
@[simp] theorem State.put_dr1 (s : State) (r0 : Reg) (v : Int) : (s.put r0 v).dr1 = s.dr1 := rfl
@[simp] theorem State.put_dr2 (s : State) (r0 : Reg) (v : Int) : (s.put r0 v).dr2 = s.dr2 := rfl
@[simp] theorem State.put_dr3 (s : State) (r0 : Reg) (v : Int) : (s.put r0 v).dr3 = s.dr3 := rfl
@[simp] theorem State.put_dr4 (s : State) (r0 : Reg) (v : Int) : (s.put r0 v).dr4 = s.dr4 := rfl
@[simp] theorem State.put_mem (s : State) (r0 : Reg) (v : Int) : (s.put r0 v).mem = s.mem := rfl
@[simp] theorem State.put_readHexad (s : State) (r0 : Reg) (v : Int) (x : Addr) : (s.put r0 v).readHexad x = s.readHexad x := rfl
@[simp] theorem State.put_readWord (s : State) (r0 : Reg) (v : Int) (x : Addr) : (s.put r0 v).readWord x = s.readWord x := rfl
@[simp] theorem State.put_ioLog (s : State) (r0 : Reg) (v : Int) : (s.put r0 v).ioLog = s.ioLog := rfl
@[simp] theorem State.put_ioAnswers (s : State) (r0 : Reg) (v : Int) : (s.put r0 v).ioAnswers = s.ioAnswers := rfl
@[simp] theorem State.put_pendingInts (s : State) (r0 : Reg) (v : Int) : (s.put r0 v).pendingInts = s.pendingInts := rfl
@[simp] theorem State.put_draws (s : State) (r0 : Reg) (v : Int) : (s.put r0 v).draws = s.draws := rfl
@[simp] theorem State.put_params (s : State) (r0 : Reg) (v : Int) : (s.put r0 v).params = s.params := rfl

/-! ## `State.setFlag` -/

@[simp] theorem State.setFlag_regs (s : State) (f : Flag) (v : Trit) : (s.setFlag f v).regs = s.regs := rfl
@[simp] theorem State.setFlag_get (s : State) (f : Flag) (v : Trit) (reg : Reg) : (s.setFlag f v).get reg = s.get reg := rfl
@[simp] theorem State.setFlag_ip (s : State) (f : Flag) (v : Trit) : (s.setFlag f v).ip = s.ip := rfl
@[simp] theorem State.setFlag_cr1 (s : State) (f : Flag) (v : Trit) : (s.setFlag f v).cr1 = s.cr1.set f v := rfl
@[simp] theorem State.setFlag_cr2 (s : State) (f : Flag) (v : Trit) : (s.setFlag f v).cr2 = s.cr2 := rfl
@[simp] theorem State.setFlag_cr3 (s : State) (f : Flag) (v : Trit) : (s.setFlag f v).cr3 = s.cr3 := rfl
@[simp] theorem State.setFlag_cr4 (s : State) (f : Flag) (v : Trit) : (s.setFlag f v).cr4 = s.cr4 := rfl
@[simp] theorem State.setFlag_dr1 (s : State) (f : Flag) (v : Trit) : (s.setFlag f v).dr1 = s.dr1 := rfl
@[simp] theorem State.setFlag_dr2 (s : State) (f : Flag) (v : Trit) : (s.setFlag f v).dr2 = s.dr2 := rfl
@[simp] theorem State.setFlag_dr3 (s : State) (f : Flag) (v : Trit) : (s.setFlag f v).dr3 = s.dr3 := rfl
@[simp] theorem State.setFlag_dr4 (s : State) (f : Flag) (v : Trit) : (s.setFlag f v).dr4 = s.dr4 := rfl
@[simp] theorem State.setFlag_mem (s : State) (f : Flag) (v : Trit) : (s.setFlag f v).mem = s.mem := rfl
@[simp] theorem State.setFlag_readHexad (s : State) (f : Flag) (v : Trit) (x : Addr) : (s.setFlag f v).readHexad x = s.readHexad x := rfl
@[simp] theorem State.setFlag_readWord (s : State) (f : Flag) (v : Trit) (x : Addr) : (s.setFlag f v).readWord x = s.readWord x := rfl
@[simp] theorem State.setFlag_ioLog (s : State) (f : Flag) (v : Trit) : (s.setFlag f v).ioLog = s.ioLog := rfl
@[simp] theorem State.setFlag_ioAnswers (s : State) (f : Flag) (v : Trit) : (s.setFlag f v).ioAnswers = s.ioAnswers := rfl
@[simp] theorem State.setFlag_pendingInts (s : State) (f : Flag) (v : Trit) : (s.setFlag f v).pendingInts = s.pendingInts := rfl
@[simp] theorem State.setFlag_draws (s : State) (f : Flag) (v : Trit) : (s.setFlag f v).draws = s.draws := rfl
@[simp] theorem State.setFlag_params (s : State) (f : Flag) (v : Trit) : (s.setFlag f v).params = s.params := rfl

/-! ## `State.arithFlags` -/

@[simp] theorem State.arithFlags_regs (s : State) (e : Int) : (s.arithFlags e).regs = s.regs := rfl
@[simp] theorem State.arithFlags_get (s : State) (e : Int) (reg : Reg) : (s.arithFlags e).get reg = s.get reg := rfl
@[simp] theorem State.arithFlags_ip (s : State) (e : Int) : (s.arithFlags e).ip = s.ip := rfl
@[simp] theorem State.arithFlags_cr2 (s : State) (e : Int) : (s.arithFlags e).cr2 = s.cr2 := rfl
@[simp] theorem State.arithFlags_cr3 (s : State) (e : Int) : (s.arithFlags e).cr3 = s.cr3 := rfl
@[simp] theorem State.arithFlags_cr4 (s : State) (e : Int) : (s.arithFlags e).cr4 = s.cr4 := rfl
@[simp] theorem State.arithFlags_dr1 (s : State) (e : Int) : (s.arithFlags e).dr1 = s.dr1 := rfl
@[simp] theorem State.arithFlags_dr2 (s : State) (e : Int) : (s.arithFlags e).dr2 = s.dr2 := rfl
@[simp] theorem State.arithFlags_dr3 (s : State) (e : Int) : (s.arithFlags e).dr3 = s.dr3 := rfl
@[simp] theorem State.arithFlags_dr4 (s : State) (e : Int) : (s.arithFlags e).dr4 = s.dr4 := rfl
@[simp] theorem State.arithFlags_mem (s : State) (e : Int) : (s.arithFlags e).mem = s.mem := rfl
@[simp] theorem State.arithFlags_readHexad (s : State) (e : Int) (x : Addr) : (s.arithFlags e).readHexad x = s.readHexad x := rfl
@[simp] theorem State.arithFlags_readWord (s : State) (e : Int) (x : Addr) : (s.arithFlags e).readWord x = s.readWord x := rfl
@[simp] theorem State.arithFlags_ioLog (s : State) (e : Int) : (s.arithFlags e).ioLog = s.ioLog := rfl
@[simp] theorem State.arithFlags_ioAnswers (s : State) (e : Int) : (s.arithFlags e).ioAnswers = s.ioAnswers := rfl
@[simp] theorem State.arithFlags_pendingInts (s : State) (e : Int) : (s.arithFlags e).pendingInts = s.pendingInts := rfl
@[simp] theorem State.arithFlags_draws (s : State) (e : Int) : (s.arithFlags e).draws = s.draws := rfl
@[simp] theorem State.arithFlags_params (s : State) (e : Int) : (s.arithFlags e).params = s.params := rfl

/-! ## `State.mulFlags` -/

@[simp] theorem State.mulFlags_regs (s : State) (e : Int) : (s.mulFlags e).regs = s.regs := rfl
@[simp] theorem State.mulFlags_get (s : State) (e : Int) (reg : Reg) : (s.mulFlags e).get reg = s.get reg := rfl
@[simp] theorem State.mulFlags_ip (s : State) (e : Int) : (s.mulFlags e).ip = s.ip := rfl
@[simp] theorem State.mulFlags_cr2 (s : State) (e : Int) : (s.mulFlags e).cr2 = s.cr2 := rfl
@[simp] theorem State.mulFlags_cr3 (s : State) (e : Int) : (s.mulFlags e).cr3 = s.cr3 := rfl
@[simp] theorem State.mulFlags_cr4 (s : State) (e : Int) : (s.mulFlags e).cr4 = s.cr4 := rfl
@[simp] theorem State.mulFlags_dr1 (s : State) (e : Int) : (s.mulFlags e).dr1 = s.dr1 := rfl
@[simp] theorem State.mulFlags_dr2 (s : State) (e : Int) : (s.mulFlags e).dr2 = s.dr2 := rfl
@[simp] theorem State.mulFlags_dr3 (s : State) (e : Int) : (s.mulFlags e).dr3 = s.dr3 := rfl
@[simp] theorem State.mulFlags_dr4 (s : State) (e : Int) : (s.mulFlags e).dr4 = s.dr4 := rfl
@[simp] theorem State.mulFlags_mem (s : State) (e : Int) : (s.mulFlags e).mem = s.mem := rfl
@[simp] theorem State.mulFlags_readHexad (s : State) (e : Int) (x : Addr) : (s.mulFlags e).readHexad x = s.readHexad x := rfl
@[simp] theorem State.mulFlags_readWord (s : State) (e : Int) (x : Addr) : (s.mulFlags e).readWord x = s.readWord x := rfl
@[simp] theorem State.mulFlags_ioLog (s : State) (e : Int) : (s.mulFlags e).ioLog = s.ioLog := rfl
@[simp] theorem State.mulFlags_ioAnswers (s : State) (e : Int) : (s.mulFlags e).ioAnswers = s.ioAnswers := rfl
@[simp] theorem State.mulFlags_pendingInts (s : State) (e : Int) : (s.mulFlags e).pendingInts = s.pendingInts := rfl
@[simp] theorem State.mulFlags_draws (s : State) (e : Int) : (s.mulFlags e).draws = s.draws := rfl
@[simp] theorem State.mulFlags_params (s : State) (e : Int) : (s.mulFlags e).params = s.params := rfl

/-! ## `State.divFlags` -/

@[simp] theorem State.divFlags_regs (s : State) (e : Int) : (s.divFlags e).regs = s.regs := rfl
@[simp] theorem State.divFlags_get (s : State) (e : Int) (reg : Reg) : (s.divFlags e).get reg = s.get reg := rfl
@[simp] theorem State.divFlags_ip (s : State) (e : Int) : (s.divFlags e).ip = s.ip := rfl
@[simp] theorem State.divFlags_cr2 (s : State) (e : Int) : (s.divFlags e).cr2 = s.cr2 := rfl
@[simp] theorem State.divFlags_cr3 (s : State) (e : Int) : (s.divFlags e).cr3 = s.cr3 := rfl
@[simp] theorem State.divFlags_cr4 (s : State) (e : Int) : (s.divFlags e).cr4 = s.cr4 := rfl
@[simp] theorem State.divFlags_dr1 (s : State) (e : Int) : (s.divFlags e).dr1 = s.dr1 := rfl
@[simp] theorem State.divFlags_dr2 (s : State) (e : Int) : (s.divFlags e).dr2 = s.dr2 := rfl
@[simp] theorem State.divFlags_dr3 (s : State) (e : Int) : (s.divFlags e).dr3 = s.dr3 := rfl
@[simp] theorem State.divFlags_dr4 (s : State) (e : Int) : (s.divFlags e).dr4 = s.dr4 := rfl
@[simp] theorem State.divFlags_mem (s : State) (e : Int) : (s.divFlags e).mem = s.mem := rfl
@[simp] theorem State.divFlags_readHexad (s : State) (e : Int) (x : Addr) : (s.divFlags e).readHexad x = s.readHexad x := rfl
@[simp] theorem State.divFlags_readWord (s : State) (e : Int) (x : Addr) : (s.divFlags e).readWord x = s.readWord x := rfl
@[simp] theorem State.divFlags_ioLog (s : State) (e : Int) : (s.divFlags e).ioLog = s.ioLog := rfl
@[simp] theorem State.divFlags_ioAnswers (s : State) (e : Int) : (s.divFlags e).ioAnswers = s.ioAnswers := rfl
@[simp] theorem State.divFlags_pendingInts (s : State) (e : Int) : (s.divFlags e).pendingInts = s.pendingInts := rfl
@[simp] theorem State.divFlags_draws (s : State) (e : Int) : (s.divFlags e).draws = s.draws := rfl
@[simp] theorem State.divFlags_params (s : State) (e : Int) : (s.divFlags e).params = s.params := rfl

/-! ## `State.writeHexad` -/

@[simp] theorem State.writeHexad_regs (s : State) (a : Addr) (h : Hexad) : (s.writeHexad a h).regs = s.regs := rfl
@[simp] theorem State.writeHexad_get (s : State) (a : Addr) (h : Hexad) (reg : Reg) : (s.writeHexad a h).get reg = s.get reg := rfl
@[simp] theorem State.writeHexad_ip (s : State) (a : Addr) (h : Hexad) : (s.writeHexad a h).ip = s.ip := rfl
@[simp] theorem State.writeHexad_cr1 (s : State) (a : Addr) (h : Hexad) : (s.writeHexad a h).cr1 = s.cr1 := rfl
@[simp] theorem State.writeHexad_flag (s : State) (a : Addr) (h : Hexad) (g : Flag) : (s.writeHexad a h).flag g = s.flag g := rfl
@[simp] theorem State.writeHexad_cr2 (s : State) (a : Addr) (h : Hexad) : (s.writeHexad a h).cr2 = s.cr2 := rfl
@[simp] theorem State.writeHexad_cr3 (s : State) (a : Addr) (h : Hexad) : (s.writeHexad a h).cr3 = s.cr3 := rfl
@[simp] theorem State.writeHexad_cr4 (s : State) (a : Addr) (h : Hexad) : (s.writeHexad a h).cr4 = s.cr4 := rfl
@[simp] theorem State.writeHexad_dr1 (s : State) (a : Addr) (h : Hexad) : (s.writeHexad a h).dr1 = s.dr1 := rfl
@[simp] theorem State.writeHexad_dr2 (s : State) (a : Addr) (h : Hexad) : (s.writeHexad a h).dr2 = s.dr2 := rfl
@[simp] theorem State.writeHexad_dr3 (s : State) (a : Addr) (h : Hexad) : (s.writeHexad a h).dr3 = s.dr3 := rfl
@[simp] theorem State.writeHexad_dr4 (s : State) (a : Addr) (h : Hexad) : (s.writeHexad a h).dr4 = s.dr4 := rfl
@[simp] theorem State.writeHexad_mem (s : State) (a : Addr) (h : Hexad) : (s.writeHexad a h).mem = s.mem.write a h := rfl
@[simp] theorem State.writeHexad_ioLog (s : State) (a : Addr) (h : Hexad) : (s.writeHexad a h).ioLog = s.ioLog := rfl
@[simp] theorem State.writeHexad_ioAnswers (s : State) (a : Addr) (h : Hexad) : (s.writeHexad a h).ioAnswers = s.ioAnswers := rfl
@[simp] theorem State.writeHexad_pendingInts (s : State) (a : Addr) (h : Hexad) : (s.writeHexad a h).pendingInts = s.pendingInts := rfl
@[simp] theorem State.writeHexad_draws (s : State) (a : Addr) (h : Hexad) : (s.writeHexad a h).draws = s.draws := rfl
@[simp] theorem State.writeHexad_params (s : State) (a : Addr) (h : Hexad) : (s.writeHexad a h).params = s.params := rfl

/-! ## `State.writeWord` -/

@[simp] theorem State.writeWord_regs (s : State) (a : Addr) (v : Word) : (s.writeWord a v).regs = s.regs := rfl
@[simp] theorem State.writeWord_get (s : State) (a : Addr) (v : Word) (reg : Reg) : (s.writeWord a v).get reg = s.get reg := rfl
@[simp] theorem State.writeWord_ip (s : State) (a : Addr) (v : Word) : (s.writeWord a v).ip = s.ip := rfl
@[simp] theorem State.writeWord_cr1 (s : State) (a : Addr) (v : Word) : (s.writeWord a v).cr1 = s.cr1 := rfl
@[simp] theorem State.writeWord_flag (s : State) (a : Addr) (v : Word) (g : Flag) : (s.writeWord a v).flag g = s.flag g := rfl
@[simp] theorem State.writeWord_cr2 (s : State) (a : Addr) (v : Word) : (s.writeWord a v).cr2 = s.cr2 := rfl
@[simp] theorem State.writeWord_cr3 (s : State) (a : Addr) (v : Word) : (s.writeWord a v).cr3 = s.cr3 := rfl
@[simp] theorem State.writeWord_cr4 (s : State) (a : Addr) (v : Word) : (s.writeWord a v).cr4 = s.cr4 := rfl
@[simp] theorem State.writeWord_dr1 (s : State) (a : Addr) (v : Word) : (s.writeWord a v).dr1 = s.dr1 := rfl
@[simp] theorem State.writeWord_dr2 (s : State) (a : Addr) (v : Word) : (s.writeWord a v).dr2 = s.dr2 := rfl
@[simp] theorem State.writeWord_dr3 (s : State) (a : Addr) (v : Word) : (s.writeWord a v).dr3 = s.dr3 := rfl
@[simp] theorem State.writeWord_dr4 (s : State) (a : Addr) (v : Word) : (s.writeWord a v).dr4 = s.dr4 := rfl
@[simp] theorem State.writeWord_ioLog (s : State) (a : Addr) (v : Word) : (s.writeWord a v).ioLog = s.ioLog := rfl
@[simp] theorem State.writeWord_ioAnswers (s : State) (a : Addr) (v : Word) : (s.writeWord a v).ioAnswers = s.ioAnswers := rfl
@[simp] theorem State.writeWord_pendingInts (s : State) (a : Addr) (v : Word) : (s.writeWord a v).pendingInts = s.pendingInts := rfl
@[simp] theorem State.writeWord_draws (s : State) (a : Addr) (v : Word) : (s.writeWord a v).draws = s.draws := rfl
@[simp] theorem State.writeWord_params (s : State) (a : Addr) (v : Word) : (s.writeWord a v).params = s.params := rfl

/-! ## `State.jump` -/

@[simp] theorem State.jump_regs (s : State) (t : Int) : (s.jump t).regs = s.regs := rfl
@[simp] theorem State.jump_get (s : State) (t : Int) (reg : Reg) : (s.jump t).get reg = s.get reg := rfl
@[simp] theorem State.jump_ip (s : State) (t : Int) : (s.jump t).ip = align t := rfl
@[simp] theorem State.jump_cr1 (s : State) (t : Int) : (s.jump t).cr1 = s.cr1 := rfl
@[simp] theorem State.jump_flag (s : State) (t : Int) (g : Flag) : (s.jump t).flag g = s.flag g := rfl
@[simp] theorem State.jump_cr2 (s : State) (t : Int) : (s.jump t).cr2 = s.cr2 := rfl
@[simp] theorem State.jump_cr3 (s : State) (t : Int) : (s.jump t).cr3 = s.cr3 := rfl
@[simp] theorem State.jump_cr4 (s : State) (t : Int) : (s.jump t).cr4 = s.cr4 := rfl
@[simp] theorem State.jump_dr1 (s : State) (t : Int) : (s.jump t).dr1 = s.dr1 := rfl
@[simp] theorem State.jump_dr2 (s : State) (t : Int) : (s.jump t).dr2 = s.dr2 := rfl
@[simp] theorem State.jump_dr3 (s : State) (t : Int) : (s.jump t).dr3 = s.dr3 := rfl
@[simp] theorem State.jump_dr4 (s : State) (t : Int) : (s.jump t).dr4 = s.dr4 := rfl
@[simp] theorem State.jump_mem (s : State) (t : Int) : (s.jump t).mem = s.mem := rfl
@[simp] theorem State.jump_readHexad (s : State) (t : Int) (x : Addr) : (s.jump t).readHexad x = s.readHexad x := rfl
@[simp] theorem State.jump_readWord (s : State) (t : Int) (x : Addr) : (s.jump t).readWord x = s.readWord x := rfl
@[simp] theorem State.jump_ioLog (s : State) (t : Int) : (s.jump t).ioLog = s.ioLog := rfl
@[simp] theorem State.jump_ioAnswers (s : State) (t : Int) : (s.jump t).ioAnswers = s.ioAnswers := rfl
@[simp] theorem State.jump_pendingInts (s : State) (t : Int) : (s.jump t).pendingInts = s.pendingInts := rfl
@[simp] theorem State.jump_draws (s : State) (t : Int) : (s.jump t).draws = s.draws := rfl
@[simp] theorem State.jump_params (s : State) (t : Int) : (s.jump t).params = s.params := rfl

/-! ## `State.branch` -/

@[simp] theorem State.branch_regs (s : State) (t : Int) : (s.branch t).regs = s.regs := rfl
@[simp] theorem State.branch_get (s : State) (t : Int) (reg : Reg) : (s.branch t).get reg = s.get reg := rfl
@[simp] theorem State.branch_ip (s : State) (t : Int) : (s.branch t).ip = align (s.ip.val + t) := rfl
@[simp] theorem State.branch_cr1 (s : State) (t : Int) : (s.branch t).cr1 = s.cr1 := rfl
@[simp] theorem State.branch_flag (s : State) (t : Int) (g : Flag) : (s.branch t).flag g = s.flag g := rfl
@[simp] theorem State.branch_cr2 (s : State) (t : Int) : (s.branch t).cr2 = s.cr2 := rfl
@[simp] theorem State.branch_cr3 (s : State) (t : Int) : (s.branch t).cr3 = s.cr3 := rfl
@[simp] theorem State.branch_cr4 (s : State) (t : Int) : (s.branch t).cr4 = s.cr4 := rfl
@[simp] theorem State.branch_dr1 (s : State) (t : Int) : (s.branch t).dr1 = s.dr1 := rfl
@[simp] theorem State.branch_dr2 (s : State) (t : Int) : (s.branch t).dr2 = s.dr2 := rfl
@[simp] theorem State.branch_dr3 (s : State) (t : Int) : (s.branch t).dr3 = s.dr3 := rfl
@[simp] theorem State.branch_dr4 (s : State) (t : Int) : (s.branch t).dr4 = s.dr4 := rfl
@[simp] theorem State.branch_mem (s : State) (t : Int) : (s.branch t).mem = s.mem := rfl
@[simp] theorem State.branch_readHexad (s : State) (t : Int) (x : Addr) : (s.branch t).readHexad x = s.readHexad x := rfl
@[simp] theorem State.branch_readWord (s : State) (t : Int) (x : Addr) : (s.branch t).readWord x = s.readWord x := rfl
@[simp] theorem State.branch_ioLog (s : State) (t : Int) : (s.branch t).ioLog = s.ioLog := rfl
@[simp] theorem State.branch_ioAnswers (s : State) (t : Int) : (s.branch t).ioAnswers = s.ioAnswers := rfl
@[simp] theorem State.branch_pendingInts (s : State) (t : Int) : (s.branch t).pendingInts = s.pendingInts := rfl
@[simp] theorem State.branch_draws (s : State) (t : Int) : (s.branch t).draws = s.draws := rfl
@[simp] theorem State.branch_params (s : State) (t : Int) : (s.branch t).params = s.params := rfl

/-! ## `State.advance` -/

@[simp] theorem State.advance_regs (s : State) : (s.advance).regs = s.regs := rfl
@[simp] theorem State.advance_get (s : State) (reg : Reg) : (s.advance).get reg = s.get reg := rfl
@[simp] theorem State.advance_ip (s : State) : (s.advance).ip = Bt.plus s.ip 3 := rfl
@[simp] theorem State.advance_cr1 (s : State) : (s.advance).cr1 = s.cr1 := rfl
@[simp] theorem State.advance_flag (s : State) (g : Flag) : (s.advance).flag g = s.flag g := rfl
@[simp] theorem State.advance_cr2 (s : State) : (s.advance).cr2 = s.cr2 := rfl
@[simp] theorem State.advance_cr3 (s : State) : (s.advance).cr3 = s.cr3 := rfl
@[simp] theorem State.advance_cr4 (s : State) : (s.advance).cr4 = s.cr4 := rfl
@[simp] theorem State.advance_dr1 (s : State) : (s.advance).dr1 = s.dr1 := rfl
@[simp] theorem State.advance_dr2 (s : State) : (s.advance).dr2 = s.dr2 := rfl
@[simp] theorem State.advance_dr3 (s : State) : (s.advance).dr3 = s.dr3 := rfl
@[simp] theorem State.advance_dr4 (s : State) : (s.advance).dr4 = s.dr4 := rfl
@[simp] theorem State.advance_mem (s : State) : (s.advance).mem = s.mem := rfl
@[simp] theorem State.advance_readHexad (s : State) (x : Addr) : (s.advance).readHexad x = s.readHexad x := rfl
@[simp] theorem State.advance_readWord (s : State) (x : Addr) : (s.advance).readWord x = s.readWord x := rfl
@[simp] theorem State.advance_ioLog (s : State) : (s.advance).ioLog = s.ioLog := rfl
@[simp] theorem State.advance_ioAnswers (s : State) : (s.advance).ioAnswers = s.ioAnswers := rfl
@[simp] theorem State.advance_pendingInts (s : State) : (s.advance).pendingInts = s.pendingInts := rfl
@[simp] theorem State.advance_draws (s : State) : (s.advance).draws = s.draws := rfl
@[simp] theorem State.advance_params (s : State) : (s.advance).params = s.params := rfl

/-! ## `State.drew` -/

@[simp] theorem State.drew_regs (s : State) : (s.drew).regs = s.regs := rfl
@[simp] theorem State.drew_get (s : State) (reg : Reg) : (s.drew).get reg = s.get reg := rfl
@[simp] theorem State.drew_ip (s : State) : (s.drew).ip = s.ip := rfl
@[simp] theorem State.drew_cr1 (s : State) : (s.drew).cr1 = s.cr1 := rfl
@[simp] theorem State.drew_flag (s : State) (g : Flag) : (s.drew).flag g = s.flag g := rfl
@[simp] theorem State.drew_cr2 (s : State) : (s.drew).cr2 = s.cr2 := rfl
@[simp] theorem State.drew_cr3 (s : State) : (s.drew).cr3 = s.cr3 := rfl
@[simp] theorem State.drew_cr4 (s : State) : (s.drew).cr4 = s.cr4 := rfl
@[simp] theorem State.drew_dr1 (s : State) : (s.drew).dr1 = s.dr1 := rfl
@[simp] theorem State.drew_dr2 (s : State) : (s.drew).dr2 = s.dr2 := rfl
@[simp] theorem State.drew_dr3 (s : State) : (s.drew).dr3 = s.dr3 := rfl
@[simp] theorem State.drew_dr4 (s : State) : (s.drew).dr4 = s.dr4 := rfl
@[simp] theorem State.drew_mem (s : State) : (s.drew).mem = s.mem := rfl
@[simp] theorem State.drew_readHexad (s : State) (x : Addr) : (s.drew).readHexad x = s.readHexad x := rfl
@[simp] theorem State.drew_readWord (s : State) (x : Addr) : (s.drew).readWord x = s.readWord x := rfl
@[simp] theorem State.drew_ioLog (s : State) : (s.drew).ioLog = s.ioLog := rfl
@[simp] theorem State.drew_ioAnswers (s : State) : (s.drew).ioAnswers = s.ioAnswers := rfl
@[simp] theorem State.drew_pendingInts (s : State) : (s.drew).pendingInts = s.pendingInts := rfl
@[simp] theorem State.drew_draws (s : State) : (s.drew).draws = s.draws + 1 := rfl
@[simp] theorem State.drew_params (s : State) : (s.drew).params = s.params := rfl

/-! ## `State.logIo` -/

@[simp] theorem State.logIo_regs (s : State) (e : IoEvent) : (s.logIo e).regs = s.regs := rfl
@[simp] theorem State.logIo_get (s : State) (e : IoEvent) (reg : Reg) : (s.logIo e).get reg = s.get reg := rfl
@[simp] theorem State.logIo_ip (s : State) (e : IoEvent) : (s.logIo e).ip = s.ip := rfl
@[simp] theorem State.logIo_cr1 (s : State) (e : IoEvent) : (s.logIo e).cr1 = s.cr1 := rfl
@[simp] theorem State.logIo_flag (s : State) (e : IoEvent) (g : Flag) : (s.logIo e).flag g = s.flag g := rfl
@[simp] theorem State.logIo_cr2 (s : State) (e : IoEvent) : (s.logIo e).cr2 = s.cr2 := rfl
@[simp] theorem State.logIo_cr3 (s : State) (e : IoEvent) : (s.logIo e).cr3 = s.cr3 := rfl
@[simp] theorem State.logIo_cr4 (s : State) (e : IoEvent) : (s.logIo e).cr4 = s.cr4 := rfl
@[simp] theorem State.logIo_dr1 (s : State) (e : IoEvent) : (s.logIo e).dr1 = s.dr1 := rfl
@[simp] theorem State.logIo_dr2 (s : State) (e : IoEvent) : (s.logIo e).dr2 = s.dr2 := rfl
@[simp] theorem State.logIo_dr3 (s : State) (e : IoEvent) : (s.logIo e).dr3 = s.dr3 := rfl
@[simp] theorem State.logIo_dr4 (s : State) (e : IoEvent) : (s.logIo e).dr4 = s.dr4 := rfl
@[simp] theorem State.logIo_mem (s : State) (e : IoEvent) : (s.logIo e).mem = s.mem := rfl
@[simp] theorem State.logIo_readHexad (s : State) (e : IoEvent) (x : Addr) : (s.logIo e).readHexad x = s.readHexad x := rfl
@[simp] theorem State.logIo_readWord (s : State) (e : IoEvent) (x : Addr) : (s.logIo e).readWord x = s.readWord x := rfl
@[simp] theorem State.logIo_ioLog (s : State) (e : IoEvent) : (s.logIo e).ioLog = s.ioLog ++ [e] := rfl
@[simp] theorem State.logIo_ioAnswers (s : State) (e : IoEvent) : (s.logIo e).ioAnswers = s.ioAnswers := rfl
@[simp] theorem State.logIo_pendingInts (s : State) (e : IoEvent) : (s.logIo e).pendingInts = s.pendingInts := rfl
@[simp] theorem State.logIo_draws (s : State) (e : IoEvent) : (s.logIo e).draws = s.draws := rfl
@[simp] theorem State.logIo_params (s : State) (e : IoEvent) : (s.logIo e).params = s.params := rfl

/-! ## `State.ioWrite` -/

@[simp] theorem State.ioWrite_regs (s : State) (a : Nonad) (k : IoKind) (v : Word) : (s.ioWrite a k v).regs = s.regs := rfl
@[simp] theorem State.ioWrite_get (s : State) (a : Nonad) (k : IoKind) (v : Word) (reg : Reg) : (s.ioWrite a k v).get reg = s.get reg := rfl
@[simp] theorem State.ioWrite_ip (s : State) (a : Nonad) (k : IoKind) (v : Word) : (s.ioWrite a k v).ip = s.ip := rfl
@[simp] theorem State.ioWrite_cr1 (s : State) (a : Nonad) (k : IoKind) (v : Word) : (s.ioWrite a k v).cr1 = s.cr1 := rfl
@[simp] theorem State.ioWrite_flag (s : State) (a : Nonad) (k : IoKind) (v : Word) (g : Flag) : (s.ioWrite a k v).flag g = s.flag g := rfl
@[simp] theorem State.ioWrite_cr2 (s : State) (a : Nonad) (k : IoKind) (v : Word) : (s.ioWrite a k v).cr2 = s.cr2 := rfl
@[simp] theorem State.ioWrite_cr3 (s : State) (a : Nonad) (k : IoKind) (v : Word) : (s.ioWrite a k v).cr3 = s.cr3 := rfl
@[simp] theorem State.ioWrite_cr4 (s : State) (a : Nonad) (k : IoKind) (v : Word) : (s.ioWrite a k v).cr4 = s.cr4 := rfl
@[simp] theorem State.ioWrite_dr1 (s : State) (a : Nonad) (k : IoKind) (v : Word) : (s.ioWrite a k v).dr1 = s.dr1 := rfl
@[simp] theorem State.ioWrite_dr2 (s : State) (a : Nonad) (k : IoKind) (v : Word) : (s.ioWrite a k v).dr2 = s.dr2 := rfl
@[simp] theorem State.ioWrite_dr3 (s : State) (a : Nonad) (k : IoKind) (v : Word) : (s.ioWrite a k v).dr3 = s.dr3 := rfl
@[simp] theorem State.ioWrite_dr4 (s : State) (a : Nonad) (k : IoKind) (v : Word) : (s.ioWrite a k v).dr4 = s.dr4 := rfl
@[simp] theorem State.ioWrite_mem (s : State) (a : Nonad) (k : IoKind) (v : Word) : (s.ioWrite a k v).mem = s.mem := rfl
@[simp] theorem State.ioWrite_readHexad (s : State) (a : Nonad) (k : IoKind) (v : Word) (x : Addr) : (s.ioWrite a k v).readHexad x = s.readHexad x := rfl
@[simp] theorem State.ioWrite_readWord (s : State) (a : Nonad) (k : IoKind) (v : Word) (x : Addr) : (s.ioWrite a k v).readWord x = s.readWord x := rfl
@[simp] theorem State.ioWrite_ioLog (s : State) (a : Nonad) (k : IoKind) (v : Word) : (s.ioWrite a k v).ioLog = s.ioLog ++ [.write a k v (s.flag .b)] := rfl
@[simp] theorem State.ioWrite_ioAnswers (s : State) (a : Nonad) (k : IoKind) (v : Word) : (s.ioWrite a k v).ioAnswers = s.ioAnswers := rfl
@[simp] theorem State.ioWrite_pendingInts (s : State) (a : Nonad) (k : IoKind) (v : Word) : (s.ioWrite a k v).pendingInts = s.pendingInts := rfl
@[simp] theorem State.ioWrite_draws (s : State) (a : Nonad) (k : IoKind) (v : Word) : (s.ioWrite a k v).draws = s.draws := rfl
@[simp] theorem State.ioWrite_params (s : State) (a : Nonad) (k : IoKind) (v : Word) : (s.ioWrite a k v).params = s.params := rfl

/-! ## `State.enter` -/

@[simp] theorem State.enter_regs (s : State) (n : Int) (a : Addr) : (s.enter n a).regs = s.regs := rfl
@[simp] theorem State.enter_get (s : State) (n : Int) (a : Addr) (reg : Reg) : (s.enter n a).get reg = s.get reg := rfl
@[simp] theorem State.enter_ip (s : State) (n : Int) (a : Addr) : (s.enter n a).ip = align (s.readWord (s.vectorAddr n)).val := rfl
@[simp] theorem State.enter_cr1 (s : State) (n : Int) (a : Addr) : (s.enter n a).cr1 = s.cr1 := rfl
@[simp] theorem State.enter_flag (s : State) (n : Int) (a : Addr) (g : Flag) : (s.enter n a).flag g = s.flag g := rfl
@[simp] theorem State.enter_cr2 (s : State) (n : Int) (a : Addr) : (s.enter n a).cr2 = s.cr2 := rfl
@[simp] theorem State.enter_cr3 (s : State) (n : Int) (a : Addr) : (s.enter n a).cr3 = toWord a.val := rfl
@[simp] theorem State.enter_cr4 (s : State) (n : Int) (a : Addr) : (s.enter n a).cr4 = s.cr4 := rfl
@[simp] theorem State.enter_dr1 (s : State) (n : Int) (a : Addr) : (s.enter n a).dr1 = s.dr1 := rfl
@[simp] theorem State.enter_dr2 (s : State) (n : Int) (a : Addr) : (s.enter n a).dr2 = s.dr2 := rfl
@[simp] theorem State.enter_dr3 (s : State) (n : Int) (a : Addr) : (s.enter n a).dr3 = s.dr3 := rfl
@[simp] theorem State.enter_dr4 (s : State) (n : Int) (a : Addr) : (s.enter n a).dr4 = s.dr4 := rfl
@[simp] theorem State.enter_mem (s : State) (n : Int) (a : Addr) : (s.enter n a).mem = s.mem := rfl
@[simp] theorem State.enter_readHexad (s : State) (n : Int) (a : Addr) (x : Addr) : (s.enter n a).readHexad x = s.readHexad x := rfl
@[simp] theorem State.enter_readWord (s : State) (n : Int) (a : Addr) (x : Addr) : (s.enter n a).readWord x = s.readWord x := rfl
@[simp] theorem State.enter_ioLog (s : State) (n : Int) (a : Addr) : (s.enter n a).ioLog = s.ioLog := rfl
@[simp] theorem State.enter_ioAnswers (s : State) (n : Int) (a : Addr) : (s.enter n a).ioAnswers = s.ioAnswers := rfl
@[simp] theorem State.enter_pendingInts (s : State) (n : Int) (a : Addr) : (s.enter n a).pendingInts = s.pendingInts := rfl
@[simp] theorem State.enter_draws (s : State) (n : Int) (a : Addr) : (s.enter n a).draws = s.draws := rfl
@[simp] theorem State.enter_params (s : State) (n : Int) (a : Addr) : (s.enter n a).params = s.params := rfl

/-! ## `State.raised` -/

@[simp] theorem State.raised_regs (s : State) (e : Exc) : (s.raised e).regs = s.regs := rfl
@[simp] theorem State.raised_get (s : State) (e : Exc) (reg : Reg) : (s.raised e).get reg = s.get reg := rfl
@[simp] theorem State.raised_ip (s : State) (e : Exc) : (s.raised e).ip = align (s.readWord (s.vectorAddr e.number)).val := rfl
@[simp] theorem State.raised_cr1 (s : State) (e : Exc) : (s.raised e).cr1 = s.cr1 := rfl
@[simp] theorem State.raised_flag (s : State) (e : Exc) (g : Flag) : (s.raised e).flag g = s.flag g := rfl
@[simp] theorem State.raised_cr2 (s : State) (e : Exc) : (s.raised e).cr2 = s.cr2 := rfl
@[simp] theorem State.raised_cr3 (s : State) (e : Exc) : (s.raised e).cr3 = toWord s.savedIp.val := rfl
@[simp] theorem State.raised_cr4 (s : State) (e : Exc) : (s.raised e).cr4 = s.cr4 := rfl
@[simp] theorem State.raised_dr1 (s : State) (e : Exc) : (s.raised e).dr1 = s.dr1 := rfl
@[simp] theorem State.raised_dr2 (s : State) (e : Exc) : (s.raised e).dr2 = s.dr2 := rfl
@[simp] theorem State.raised_dr3 (s : State) (e : Exc) : (s.raised e).dr3 = s.dr3 := rfl
@[simp] theorem State.raised_dr4 (s : State) (e : Exc) : (s.raised e).dr4 = s.dr4 := rfl
@[simp] theorem State.raised_mem (s : State) (e : Exc) : (s.raised e).mem = s.mem := rfl
@[simp] theorem State.raised_readHexad (s : State) (e : Exc) (x : Addr) : (s.raised e).readHexad x = s.readHexad x := rfl
@[simp] theorem State.raised_readWord (s : State) (e : Exc) (x : Addr) : (s.raised e).readWord x = s.readWord x := rfl
@[simp] theorem State.raised_ioLog (s : State) (e : Exc) : (s.raised e).ioLog = s.ioLog := rfl
@[simp] theorem State.raised_ioAnswers (s : State) (e : Exc) : (s.raised e).ioAnswers = s.ioAnswers := rfl
@[simp] theorem State.raised_pendingInts (s : State) (e : Exc) : (s.raised e).pendingInts = s.pendingInts := rfl
@[simp] theorem State.raised_draws (s : State) (e : Exc) : (s.raised e).draws = s.draws := rfl
@[simp] theorem State.raised_params (s : State) (e : Exc) : (s.raised e).params = s.params := rfl

/-! ## `State.push` -/

@[simp] theorem State.push_regs (s : State) (v : Word) : (s.push v).regs = s.regs.write .s (toWord ((s.get .s).val - 3)) := rfl
@[simp] theorem State.push_ip (s : State) (v : Word) : (s.push v).ip = s.ip := rfl
@[simp] theorem State.push_cr1 (s : State) (v : Word) : (s.push v).cr1 = s.cr1 := rfl
@[simp] theorem State.push_flag (s : State) (v : Word) (g : Flag) : (s.push v).flag g = s.flag g := rfl
@[simp] theorem State.push_cr2 (s : State) (v : Word) : (s.push v).cr2 = s.cr2 := rfl
@[simp] theorem State.push_cr3 (s : State) (v : Word) : (s.push v).cr3 = s.cr3 := rfl
@[simp] theorem State.push_cr4 (s : State) (v : Word) : (s.push v).cr4 = s.cr4 := rfl
@[simp] theorem State.push_dr1 (s : State) (v : Word) : (s.push v).dr1 = s.dr1 := rfl
@[simp] theorem State.push_dr2 (s : State) (v : Word) : (s.push v).dr2 = s.dr2 := rfl
@[simp] theorem State.push_dr3 (s : State) (v : Word) : (s.push v).dr3 = s.dr3 := rfl
@[simp] theorem State.push_dr4 (s : State) (v : Word) : (s.push v).dr4 = s.dr4 := rfl
@[simp] theorem State.push_mem (s : State) (v : Word) : (s.push v).mem = (s.writeWord s.pushAddr v).mem := rfl
@[simp] theorem State.push_ioLog (s : State) (v : Word) : (s.push v).ioLog = s.ioLog := rfl
@[simp] theorem State.push_ioAnswers (s : State) (v : Word) : (s.push v).ioAnswers = s.ioAnswers := rfl
@[simp] theorem State.push_pendingInts (s : State) (v : Word) : (s.push v).pendingInts = s.pendingInts := rfl
@[simp] theorem State.push_draws (s : State) (v : Word) : (s.push v).draws = s.draws := rfl
@[simp] theorem State.push_params (s : State) (v : Word) : (s.push v).params = s.params := rfl

/-! ## `State.popMove` -/

@[simp] theorem State.popMove_regs (s : State) : (s.popMove).regs = s.regs.write .s (toWord ((s.get .s).val + 3)) := rfl
@[simp] theorem State.popMove_ip (s : State) : (s.popMove).ip = s.ip := rfl
@[simp] theorem State.popMove_cr1 (s : State) : (s.popMove).cr1 = s.cr1 := rfl
@[simp] theorem State.popMove_flag (s : State) (g : Flag) : (s.popMove).flag g = s.flag g := rfl
@[simp] theorem State.popMove_cr2 (s : State) : (s.popMove).cr2 = s.cr2 := rfl
@[simp] theorem State.popMove_cr3 (s : State) : (s.popMove).cr3 = s.cr3 := rfl
@[simp] theorem State.popMove_cr4 (s : State) : (s.popMove).cr4 = s.cr4 := rfl
@[simp] theorem State.popMove_dr1 (s : State) : (s.popMove).dr1 = s.dr1 := rfl
@[simp] theorem State.popMove_dr2 (s : State) : (s.popMove).dr2 = s.dr2 := rfl
@[simp] theorem State.popMove_dr3 (s : State) : (s.popMove).dr3 = s.dr3 := rfl
@[simp] theorem State.popMove_dr4 (s : State) : (s.popMove).dr4 = s.dr4 := rfl
@[simp] theorem State.popMove_mem (s : State) : (s.popMove).mem = s.mem := rfl
@[simp] theorem State.popMove_readHexad (s : State) (x : Addr) : (s.popMove).readHexad x = s.readHexad x := rfl
@[simp] theorem State.popMove_readWord (s : State) (x : Addr) : (s.popMove).readWord x = s.readWord x := rfl
@[simp] theorem State.popMove_ioLog (s : State) : (s.popMove).ioLog = s.ioLog := rfl
@[simp] theorem State.popMove_ioAnswers (s : State) : (s.popMove).ioAnswers = s.ioAnswers := rfl
@[simp] theorem State.popMove_pendingInts (s : State) : (s.popMove).pendingInts = s.pendingInts := rfl
@[simp] theorem State.popMove_draws (s : State) : (s.popMove).draws = s.draws := rfl
@[simp] theorem State.popMove_params (s : State) : (s.popMove).params = s.params := rfl

/-! ## `State.stepIndex` -/

@[simp] theorem State.stepIndex_regs (s : State) : (s.stepIndex).regs = s.regs.write .n (toWord ((s.get .n).val + (s.flag .d).toInt)) := rfl
@[simp] theorem State.stepIndex_ip (s : State) : (s.stepIndex).ip = s.ip := rfl
@[simp] theorem State.stepIndex_cr1 (s : State) : (s.stepIndex).cr1 = s.cr1 := rfl
@[simp] theorem State.stepIndex_flag (s : State) (g : Flag) : (s.stepIndex).flag g = s.flag g := rfl
@[simp] theorem State.stepIndex_cr2 (s : State) : (s.stepIndex).cr2 = s.cr2 := rfl
@[simp] theorem State.stepIndex_cr3 (s : State) : (s.stepIndex).cr3 = s.cr3 := rfl
@[simp] theorem State.stepIndex_cr4 (s : State) : (s.stepIndex).cr4 = s.cr4 := rfl
@[simp] theorem State.stepIndex_dr1 (s : State) : (s.stepIndex).dr1 = s.dr1 := rfl
@[simp] theorem State.stepIndex_dr2 (s : State) : (s.stepIndex).dr2 = s.dr2 := rfl
@[simp] theorem State.stepIndex_dr3 (s : State) : (s.stepIndex).dr3 = s.dr3 := rfl
@[simp] theorem State.stepIndex_dr4 (s : State) : (s.stepIndex).dr4 = s.dr4 := rfl
@[simp] theorem State.stepIndex_mem (s : State) : (s.stepIndex).mem = s.mem := rfl
@[simp] theorem State.stepIndex_readHexad (s : State) (x : Addr) : (s.stepIndex).readHexad x = s.readHexad x := rfl
@[simp] theorem State.stepIndex_readWord (s : State) (x : Addr) : (s.stepIndex).readWord x = s.readWord x := rfl
@[simp] theorem State.stepIndex_ioLog (s : State) : (s.stepIndex).ioLog = s.ioLog := rfl
@[simp] theorem State.stepIndex_ioAnswers (s : State) : (s.stepIndex).ioAnswers = s.ioAnswers := rfl
@[simp] theorem State.stepIndex_pendingInts (s : State) : (s.stepIndex).pendingInts = s.pendingInts := rfl
@[simp] theorem State.stepIndex_draws (s : State) : (s.stepIndex).draws = s.draws := rfl
@[simp] theorem State.stepIndex_params (s : State) : (s.stepIndex).params = s.params := rfl

end Sys2Proof.Machine
end

