-- ==== Sys2Proof/Laws/Ops.lean ====
section
/-!
SUPPORT. The laws of the shared operations: registers, flags and memory read after they are written, the canonical form of the
memory, and for each shared operation of the meanings one lemma that says everything its next state holds.
-/

namespace Sys2Proof.Machine

/-! ## Registers -/

/-- R22: a register read after a write, `rz` reading as 0 whatever was written to it. -/
theorem Regs.read_write (r : Regs) (ra rb : Reg) (v : Word) :
    (r.write ra v).read rb = if rb = ra ∧ rb ≠ .z then v else r.read rb := by
  cases ra <;> cases rb <;> rfl

@[simp] theorem State.get_z (s : State) : s.get .z = toWord 0 := rfl

@[simp] theorem State.set_get (s : State) (ra rb : Reg) (v : Word) :
    (s.set ra v).get rb = if rb = ra ∧ rb ≠ .z then v else s.get rb :=
  Regs.read_write s.regs ra rb v

@[simp] theorem State.put_get (s : State) (ra rb : Reg) (v : Int) :
    (s.put ra v).get rb = if rb = ra ∧ rb ≠ .z then toWord v else s.get rb :=
  Regs.read_write s.regs ra rb (toWord v)

@[simp] theorem State.push_get (s : State) (v : Word) (rb : Reg) :
    (s.push v).get rb = if rb = .s ∧ rb ≠ .z then toWord ((s.get .s).val - 3) else s.get rb :=
  Regs.read_write s.regs .s rb _

@[simp] theorem State.popMove_get (s : State) (rb : Reg) :
    s.popMove.get rb = if rb = .s ∧ rb ≠ .z then toWord ((s.get .s).val + 3) else s.get rb :=
  Regs.read_write s.regs .s rb _

@[simp] theorem State.stepIndex_get (s : State) (rb : Reg) :
    s.stepIndex.get rb = if rb = .n ∧ rb ≠ .z then toWord ((s.get .n).val + (s.flag .d).toInt) else s.get rb :=
  Regs.read_write s.regs .n rb _

/-! ## Flags -/

theorem FlagReg.get_set (f : FlagReg) (x y : Flag) (v : Trit) : (f.set x v).get y = if y = x then v else f.get y := by
  cases x <;> cases y <;> rfl

@[simp] theorem State.setFlag_flag (s : State) (x y : Flag) (v : Trit) :
    (s.setFlag x v).flag y = if y = x then v else s.flag y :=
  FlagReg.get_set s.cr1 x y v

/-- R260: a flag write changes the flag's own trit of `CR1` and no other. -/
theorem FlagReg.tritAt_set (f : FlagReg) (x : Flag) (v : Trit) (k : Nat) :
    (f.set x v).tritAt k = if (k : Int) = x.sel then v else f.tritAt k := by
  rcases k with _ | _ | _ | _ | _ | _ | _ | _ | _ | _ | _ | _ | _ | _ | _ | _ | _ | _ | k <;> cases x <;>
    simp [FlagReg.set, FlagReg.tritAt, Flag.sel]
  all_goals intro h; omega

/-- A lettered flag is the trit of `CR1` at its position (R31). -/
theorem FlagReg.get_eq_tritAt (f : FlagReg) (x : Flag) : f.get x = f.tritAt x.sel.toNat := by
  cases x <;> rfl

/-- `CR1` written with the word it reads as is unchanged (R40). -/
theorem FlagReg.ofWord_word (f : FlagReg) : FlagReg.ofWord f.word = f := by
  cases f
  simp [FlagReg.ofWord, FlagReg.word, FlagReg.tritAt]

/-- `CR1` reads back the word that was written to it, reserved trits included (R40, R307). -/
theorem FlagReg.word_ofWord (w : Word) : (FlagReg.ofWord w).word = w := by
  apply Bt.ext_trit
  intro i hi
  rw [FlagReg.word, trit_ofTrits _ hi]
  interval_cases i <;> rfl

@[simp] theorem State.arithFlags_flag (s : State) (e : Int) (x : Flag) :
    (s.arithFlags e).flag x =
      match x with
      | .c => Trit.ofInt (shiftOut e 18)
      | .s => signTrit (bt 18 e)
      | x => s.flag x := by
  cases x <;> rfl

@[simp] theorem State.mulFlags_flag (s : State) (p : Int) (x : Flag) :
    (s.mulFlags p).flag x =
      match x with
      | .c => Trit.ofInt (Config.mulCarry s.draws)
      | .s => signTrit p
      | x => s.flag x := by
  cases x <;> rfl

@[simp] theorem State.divFlags_flag (s : State) (q : Int) (x : Flag) :
    (s.divFlags q).flag x =
      match x with
      | .c => if half 18 < q ∨ q < -half 18 then signTrit q else .zero
      | .s => signTrit (bt 18 q)
      | x => s.flag x := by
  cases x <;> rfl

/-! ## Memory -/

theorem Memory.read_insert (m : Memory) (a b : Addr) (h : Hexad) (hm : ∀ c ∈ m, c.1 ≠ a) :
    (Memory.insert m a h).read b = if b = a then h else m.read b := by
  induction m with
  | nil =>
    by_cases hb : b = a
    · subst hb; simp [Memory.insert, Memory.read]
    · simp [Memory.insert, Memory.read, hb, Ne.symm hb]
  | cons c m ih =>
    obtain ⟨k, x⟩ := c
    have hk : k ≠ a := hm (k, x) (by simp)
    have ih := ih (fun c hc => hm c (by simp [hc]))
    simp only [Memory.insert]
    split
    · by_cases hb : b = a
      · subst hb; simp [Memory.read]
      · simp [Memory.read, hb, Ne.symm hb]
    · simp only [Memory.read, ih]
      by_cases hb : b = a
      · subst hb; simp [hk]
      · simp [hb]

theorem Memory.read_filter_ne (m : Memory) (a b : Addr) :
    Memory.read (m.filter (fun c => decide (c.1 ≠ a))) b = if b = a then Memory.unlisted a else m.read b := by
  induction m with
  | nil => by_cases hb : b = a <;> simp [Memory.read, hb]
  | cons c m ih =>
    obtain ⟨k, x⟩ := c
    by_cases hk : k = a
    · subst hk
      simp only [ne_eq, not_true_eq_false, decide_false, Bool.false_eq_true, not_false_eq_true, List.filter_cons_of_neg, ih, Memory.read]
      by_cases hb : b = k
      · simp [hb]
      · simp [hb, Ne.symm hb]
    · simp only [ne_eq, hk, not_false_eq_true, decide_true, List.filter_cons_of_pos, Memory.read, ih]
      by_cases hb : b = a
      · subst hb; simp [hk]
      · simp [hb]

/-- R62, R63: a hexad read after a write, for every memory, in its canonical form or not. -/
theorem Memory.read_write (m : Memory) (a b : Addr) (h : Hexad) :
    (m.write a h).read b = if b = a then h else m.read b := by
  unfold Memory.write
  by_cases hh : h = Memory.unlisted a
  · simp only [hh, if_true, Memory.read_filter_ne]
  · rw [if_neg hh, Memory.read_insert _ _ _ _ (by simp), Memory.read_filter_ne]
    by_cases hb : b = a <;> simp [hb]

theorem Memory.mem_insert (m : Memory) (a : Addr) (h : Hexad) (c : Cell) :
    c ∈ Memory.insert m a h ↔ c = (a, h) ∨ c ∈ m := by
  induction m with
  | nil => simp [Memory.insert]
  | cons d m ih =>
    obtain ⟨k, x⟩ := d
    simp only [Memory.insert]
    split
    · simp
    · simp only [List.mem_cons, ih]; tauto

theorem Memory.pairwise_insert (m : Memory) (a : Addr) (h : Hexad) (hm : ∀ c ∈ m, c.1 ≠ a)
    (hp : m.Pairwise (fun x y => x.1.val < y.1.val)) :
    (Memory.insert m a h).Pairwise (fun x y => x.1.val < y.1.val) := by
  induction m with
  | nil => simp [Memory.insert]
  | cons d m ih =>
    obtain ⟨k, x⟩ := d
    rw [List.pairwise_cons] at hp
    have hk : k ≠ a := hm (k, x) (by simp)
    simp only [Memory.insert]
    split
    · rename_i hlt
      rw [List.pairwise_cons, List.pairwise_cons]
      refine ⟨?_, hp⟩
      intro c hc
      rcases List.mem_cons.1 hc with rfl | hc
      · exact hlt
      · exact lt_trans hlt (hp.1 c hc)
    · rename_i hlt
      rw [List.pairwise_cons]
      refine ⟨?_, ih (fun c hc => hm c (by simp [hc])) hp.2⟩
      intro c hc
      rcases (Memory.mem_insert m a h c).1 hc with rfl | hc
      · have : k.val ≠ a.val := fun e => hk (Bt.ext e)
        show k.val < a.val
        omega
      · exact hp.1 c hc

/-- Every write keeps the canonical form of the memory. -/
theorem Memory.write_wf {m : Memory} (a : Addr) (h : Hexad) (hm : m.wf) : (m.write a h).wf := by
  obtain ⟨hp, hu⟩ := hm
  have hf := hp.filter (fun c => decide (c.1 ≠ a))
  unfold Memory.write
  by_cases hh : h = Memory.unlisted a
  · rw [if_pos hh]
    exact ⟨hf, fun c hc => hu c (List.mem_filter.1 hc).1⟩
  · rw [if_neg hh]
    refine ⟨Memory.pairwise_insert _ a h (by simp) hf, fun c hc => ?_⟩
    rcases (Memory.mem_insert _ a h c).1 hc with rfl | hc
    · exact hh
    · exact hu c (List.mem_filter.1 hc).1

@[simp] theorem State.writeHexad_readHexad (s : State) (a b : Addr) (h : Hexad) :
    (s.writeHexad a h).readHexad b = if b = a then h else s.readHexad b :=
  Memory.read_write s.mem a b h

/-- The three addresses of a word are different (R62, R64). -/
theorem Bt.plus_ne (a : Addr) : Bt.plus a 1 ≠ a ∧ Bt.plus a 2 ≠ a ∧ Bt.plus a 2 ≠ Bt.plus a 1 := by
  have h1 := a.lo
  have h2 := a.hi
  simp only [half_twelve] at h1 h2
  refine ⟨fun h => ?_, fun h => ?_, fun h => ?_⟩ <;>
  · have e := congrArg Bt.val h
    simp only [Bt.plus, Bt.ofInt_val, bt, half_twelve, pow3_twelve] at e
    omega

/-- R63, R64: the hexads after a word store, each of the three addresses wrapped. -/
@[simp] theorem State.writeWord_readHexad (s : State) (a b : Addr) (v : Word) :
    (s.writeWord a v).readHexad b =
      if b = a then v.hexad .low else if b = Bt.plus a 1 then v.hexad .mid
      else if b = Bt.plus a 2 then v.hexad .high else s.readHexad b := by
  obtain ⟨h1, h2, h3⟩ := Bt.plus_ne a
  simp only [State.writeWord, State.writeHexad_readHexad]
  by_cases e0 : b = a
  · subst e0; simp [Ne.symm h1, Ne.symm h2]
  · by_cases e1 : b = Bt.plus a 1
    · subst e1; simp [h1, Ne.symm h3]
    · simp [e0, e1]

/-- A word read where it was stored (R62, R63, R64, R76). -/
@[simp] theorem State.writeWord_readWord_same (s : State) (a : Addr) (v : Word) : (s.writeWord a v).readWord a = v := by
  obtain ⟨h1, h2, h3⟩ := Bt.plus_ne a
  simp [State.readWord, h1, h2, h3]

theorem State.writeWord_mem_wf (s : State) (a : Addr) (v : Word) (h : s.mem.wf) : (s.writeWord a v).mem.wf :=
  Memory.write_wf _ _ (Memory.write_wf _ _ (Memory.write_wf _ _ h))

theorem State.push_mem_wf (s : State) (v : Word) (h : s.mem.wf) : (s.push v).mem.wf :=
  State.writeWord_mem_wf s _ v h

@[simp] theorem State.push_readHexad (s : State) (v : Word) (b : Addr) :
    (s.push v).readHexad b = (s.writeWord s.pushAddr v).readHexad b := rfl

/-! ## What each shared operation answers -/

/-- Everything the add and subtract family can do. -/
theorem addTo_spec {dst : Reg} {e : Int} {s t : State} (h : addTo dst e s = .next t) :
    t = (s.put dst e).arithFlags e := by
  cases h; rfl

/-- Everything the multiply family can do. -/
theorem multiplyTo_spec {dst : Reg} {p : Int} {s t : State} (h : multiplyTo dst p s = .next t) :
    t = ((writeProduct dst p s).mulFlags p).drew := by
  cases h; rfl

/-- Everything a divide can do: the zero divisor's exception, or the quotient, the remainder and the flags. -/
theorem divideTo_spec {a : Reg} {d : Int} {dst : Reg} {s t : State} (h : divideTo a d dst s = .next t) :
    (d = 0 ∧ t = s.raised .divideByZero) ∨
      (d ≠ 0 ∧ t = ((s.put dst (divMod s.params (dividend a s) d).1).put .u (divMod s.params (dividend a s) d).2).divFlags
        (divMod s.params (dividend a s) d).1) := by
  unfold divideTo at h
  split at h
  · exact .inl ⟨by assumption, by cases h; rfl⟩
  · exact .inr ⟨by assumption, by cases h; rfl⟩

/-- Everything a shift or rotate through Carry can do. -/
theorem shiftCarry_spec {f : Nat → Word × Trit → Word × Trit} {a : Reg} {k : Hexad} {s t : State}
    (h : shiftCarry f a k s = .next t) :
    (k.val < 0 ∧ t = ((s.put a (Config.negativeCountResult s.draws)).setFlag .c
        (Trit.ofInt (Config.negativeCountCarry s.draws))).drew) ∨
      (0 ≤ k.val ∧ t = (s.set a (f k.val.toNat (s.get a, s.flag .c)).1).setFlag .c
        (f k.val.toNat (s.get a, s.flag .c)).2) := by
  unfold shiftCarry at h
  split at h
  · exact .inl ⟨by assumption, by cases h; rfl⟩
  · exact .inr ⟨by omega, by cases h; rfl⟩

/-- Everything `rol` and `ror` can do. -/
theorem rotateOnly_spec {f : Word → Nat → Word} {a : Reg} {k : Hexad} {s t : State} (h : rotateOnly f a k s = .next t) :
    (k.val < 0 ∧ t = (s.put a (Config.negativeCountResult s.draws)).drew) ∨
      (0 ≤ k.val ∧ t = s.set a (f (s.get a) k.val.toNat)) := by
  unfold rotateOnly at h
  split at h
  · exact .inl ⟨by assumption, by cases h; rfl⟩
  · exact .inr ⟨by omega, by cases h; rfl⟩

/-- Everything a word load can do. -/
theorem loadWord_spec {dst : Reg} {a : Addr} {s t : State} (h : loadWord dst a s = .next t) :
    t = s.set dst (s.readWord a) := by
  cases h; rfl

/-- Everything a write of one hexad of a register can do. -/
theorem putHexad_spec {dst : Reg} {p : HexPart} {x : Hexad} {s t : State} (h : putHexad dst p x s = .next t) :
    t = s.set dst ((s.get dst).setHexad p x) := by
  cases h; rfl

/-- Everything a hexad load can do. -/
theorem loadHexad_spec {dst : Reg} {p : HexPart} {a : Addr} {s t : State} (h : loadHexad dst p a s = .next t) :
    t = s.set dst ((s.get dst).setHexad p (s.readHexad a)) := by
  cases h; rfl

/-- Everything a word store can do. -/
theorem storeWord_spec {src : Reg} {a : Addr} {s t : State} (h : storeWord src a s = .next t) :
    t = s.writeWord a (s.get src) := by
  cases h; rfl

/-- Everything a hexad store can do. -/
theorem storeHexad_spec {src : Reg} {p : HexPart} {a : Addr} {s t : State} (h : storeHexad src p a s = .next t) :
    t = s.writeHexad a ((s.get src).hexad p) := by
  cases h; rfl

/-- Everything a conditional branch can do. -/
theorem branchIf_spec {f : Flag} {v : Trit} {d : Addr} {s t : State} (h : branchIf f v d s = .next t) :
    (s.flag f = v ∧ t = s.branch d.val) ∨ (s.flag f ≠ v ∧ t = s) := by
  unfold branchIf at h
  split at h
  · exact .inl ⟨by assumption, by cases h; rfl⟩
  · exact .inr ⟨by assumption, by cases h; rfl⟩

/-- Everything a conditional skip can do. -/
theorem skipIf_spec {f : Flag} {v : Trit} {s t : State} (h : skipIf f v s = .next t) :
    (s.flag f = v ∧ t = s.advance) ∨ (s.flag f ≠ v ∧ t = s) := by
  unfold skipIf at h
  split at h
  · exact .inl ⟨by assumption, by cases h; rfl⟩
  · exact .inr ⟨by assumption, by cases h; rfl⟩

/-- Everything a call can do. -/
theorem callTo_spec {target : Int} {s t : State} (h : callTo target s = .next t) :
    t = (s.push (toWord s.ip.val)).jump target := by
  cases h; rfl

/-- Everything `raise` can do. -/
theorem raise_spec {e : Exc} {s t : State} (h : raise e s = .next t) : t = s.raised e := by
  cases h; rfl

/-- Everything an I/O read into a register can do. -/
theorem ioInput_spec {kind : IoKind} {dst : Reg} {a : Nonad} {s t : State} (h : ioInput kind dst a s = .next t) :
    t = (s.ioRead a kind).set dst (s.ioAnswer a kind) := by
  cases h; rfl

/-- What an I/O read changes: the log, the lined-up answers and the count of free values drawn. -/
theorem State.ioRead_eq (s : State) (a : Nonad) (k : IoKind) :
    s.ioRead a k =
      { s with
        ioLog := s.ioLog ++ [.read a k (s.flag .b) (s.ioAnswer a k)]
        ioAnswers := s.ioAnswers.tail
        draws := if s.ioAnswers = [] then s.draws + 1 else s.draws } := by
  unfold State.ioRead State.ioAnswer
  cases h : s.ioAnswers <;> simp [State.logIo, State.drew, h]

/-- What taking an interrupt does (R341). -/
theorem State.takeInterrupt_cons {s : State} {n : Int} {rest : List Int} (h : s.pendingInts = n :: rest) :
    s.takeInterrupt = State.enter { s with pendingInts := rest } n s.ip := by
  unfold State.takeInterrupt; rw [h]

/-- Everything a write of a system register changes: the register written and nothing else. -/
theorem State.sysWrite_frame (s : State) (k : SysReg) (v : Word) :
    (s.sysWrite k v).regs = s.regs ∧ (s.sysWrite k v).mem = s.mem ∧ (s.sysWrite k v).ioLog = s.ioLog ∧
      (s.sysWrite k v).ioAnswers = s.ioAnswers ∧ (s.sysWrite k v).pendingInts = s.pendingInts ∧
      (s.sysWrite k v).draws = s.draws ∧ (s.sysWrite k v).params = s.params := by
  cases k <;> exact ⟨rfl, rfl, rfl, rfl, rfl, rfl, rfl⟩

/-- Everything the check of `INVALID_FLAG` can do (R336): the instruction's own next state, or `#IF` in its place. -/
theorem checkFlags_spec {i : Instr} {s t : State} {r : Result} (h : checkFlags i s r = .next t) :
    ∃ u, r = .next u ∧
      ((s.invalidFlag i u = false ∧ t = u) ∨ (s.invalidFlag i u = true ∧ t = s.raised .invalidFlag)) := by
  unfold checkFlags at h
  split at h
  · refine ⟨_, rfl, ?_⟩
    split at h
    · exact .inr ⟨by assumption, raise_spec h⟩
    · exact .inl ⟨by simp_all, by cases h; rfl⟩
  · cases h
  · cases h

/-- Under the default `INVALID_FLAG` nothing is checked. -/
theorem checkFlags_never {i : Instr} {s : State} (r : Result) (h : s.params.invalidFlag = []) : checkFlags i s r = r := by
  cases r <;> simp [checkFlags, State.invalidFlag, h]

/-- Everything a step can do (R27): the two ways it ends before the fetch, an instruction, or an undefined word. -/
theorem step_cases {s t : State} (h : step s = .next t) :
    (s.interruptReady = true ∧ t = s.takeInterrupt) ∨
      (s.interruptReady = false ∧ s.breakpointHit = true ∧ t = s.takeBreakpoint) ∨
      (s.interruptReady = false ∧ s.breakpointHit = false ∧
        ((∃ i u, s.decoded = .ok i ∧ exec i s.advance = .next u ∧
            ((s.advance.invalidFlag i u = false ∧ t = u) ∨
              (s.advance.invalidFlag i u = true ∧ t = s.advance.raised .invalidFlag))) ∨
          (∃ e, s.decoded = .error e ∧ t = s.advance.raised .undefinedOpcode))) := by
  unfold step at h
  split at h
  · exact .inl ⟨by assumption, by cases h; rfl⟩
  · split at h
    · exact .inr (.inl ⟨by simp_all, by assumption, by cases h; rfl⟩)
    · refine .inr (.inr ⟨by simp_all, by simp_all, ?_⟩)
      split at h
      · obtain ⟨u, hu, hc⟩ := checkFlags_spec h
        exact .inl ⟨_, u, by assumption, hu, hc⟩
      · exact .inr ⟨_, by assumption, by cases h; rfl⟩

end Sys2Proof.Machine
end

