-- ==== Sys2Proof/Laws/Assembler.lean ====
section
/-!
SUPPORT. The laws of the assembler: what hexads emitted in a row leave, what each line can do, that every line keeps the image
canonical, and that the gathering of constants misses none.
-/

namespace Sys2Proof.Machine

/-- Two moves of an address are one, whatever wraps on the way (R28, R62). -/
theorem Bt.plus_plus (a : Addr) (j k : Int) : Bt.plus (Bt.plus a j) k = Bt.plus a (j + k) := by
  apply Bt.ext
  have h12 : half 12 = 265720 := rfl
  simp only [Bt.plus, Bt.ofInt, bt, pow3_twelve, h12]
  omega

@[simp] theorem Asm.emits_nil (s : Asm) : s.emits [] = s := rfl

@[simp] theorem Asm.emits_cons (s : Asm) (h : Hexad) (hs : List Hexad) : s.emits (h :: hs) = (s.emit h).emits hs := rfl

@[simp] theorem Asm.emits_consts (hs : List Hexad) (s : Asm) : (s.emits hs).consts = s.consts := by
  induction hs generalizing s with
  | nil => rfl
  | cons x xs ih => exact ih _

@[simp] theorem Asm.emits_encoding (hs : List Hexad) (s : Asm) : (s.emits hs).encoding = s.encoding := by
  induction hs generalizing s with
  | nil => rfl
  | cons x xs ih => exact ih _

/-- The location moves past the hexads emitted (R321). -/
theorem Asm.emits_loc (hs : List Hexad) (s : Asm) : (s.emits hs).loc = Bt.plus s.loc hs.length := by
  induction hs generalizing s with
  | nil => simp [Bt.plus]
  | cons x xs ih => rw [Asm.emits_cons, ih, Asm.emit, Bt.plus_plus, List.length_cons]; congr 1; push_cast; ring

/-- A hexad outside those emitted reads as before. -/
theorem Asm.emits_read_ne (hs : List Hexad) (s : Asm) (y : Addr) (hy : ∀ k : Nat, k < hs.length → y ≠ Bt.plus s.loc k) :
    (s.emits hs).image.read y = s.image.read y := by
  induction hs generalizing s with
  | nil => rfl
  | cons x xs ih =>
    rw [Asm.emits_cons, ih]
    · refine (Memory.read_write s.image s.loc y x).trans (if_neg ?_)
      simpa [Bt.plus] using hy 0 (by simp)
    · intro k hk e
      refine hy (k + 1) (by simpa using hk) ?_
      rw [e, Asm.emit, Bt.plus_plus]; congr 1; push_cast; ring

/-- Each hexad emitted stands at its place, when they are no more than memory holds. -/
theorem Asm.emits_read (hs : List Hexad) (s : Asm) (hl : hs.length ≤ 531441) (k : Nat) (h : Hexad) (hk : hs[k]? = some h) :
    (s.emits hs).image.read (Bt.plus s.loc k) = h := by
  induction hs generalizing s k with
  | nil => simp at hk
  | cons x xs ih =>
    rw [List.length_cons] at hl
    rw [Asm.emits_cons]
    cases k with
    | zero =>
      have hx : x = h := by simpa using hk
      rw [Asm.emits_read_ne]
      · refine (Memory.read_write s.image s.loc _ x).trans ((if_pos ?_).trans hx)
        simp [Bt.plus]
      · intro k hk e
        have e := congrArg Bt.val e
        have h1 := s.loc.lo
        have h2 := s.loc.hi
        simp only [Asm.emit, Bt.plus_plus] at e
        simp only [Bt.plus, Bt.ofInt_val, bt, half_twelve, pow3_twelve] at e h1 h2
        omega
    | succ k =>
      have := ih (s.emit x) (by omega) k (by simpa using hk)
      rw [Asm.emit, Bt.plus_plus, show (1 : Int) + (k : Int) = ((k + 1 : Nat) : Int) by push_cast; ring] at this
      exact this

theorem Asm.emits_wf (hs : List Hexad) (s : Asm) (h : s.image.wf) : (s.emits hs).image.wf := by
  induction hs generalizing s with
  | nil => exact h
  | cons x xs ih => exact ih _ (Memory.write_wf _ _ h)

/-- Everything a pseudo-instruction can do: a constant, a location, or hexads emitted. -/
theorem Asm.directive_spec {s t : Asm} {d : Directive} (h : s.directive d = some t) :
    (∃ x n k, d = .eq x n ∧ s.value n = some k ∧ t = { s with consts := (x, k) :: s.consts }) ∨
      (∃ n a, d = .ad n ∧ s.field 12 n = some a ∧ t = { s with loc := a }) ∨
      (∃ hs, s.inserted d = some hs ∧ t = s.emits hs) := by
  cases d <;> simp only [Asm.directive, Option.map_eq_some_iff] at h <;> obtain ⟨x, hx, rfl⟩ := h
  case eq name v => exact .inl ⟨name, v, x, rfl, hx, rfl⟩
  case ad a => exact .inr (.inl ⟨a, x, rfl, hx, rfl⟩)
  all_goals exact .inr (.inr ⟨x, hx, rfl⟩)

/-- A pseudo-instruction keeps the image in canonical form. -/
theorem Asm.directive_wf {s t : Asm} {d : Directive} (h : s.directive d = some t) (hw : s.image.wf) : t.image.wf := by
  obtain ⟨_, _, _, -, -, rfl⟩ | ⟨_, _, -, -, rfl⟩ | ⟨hs, -, rfl⟩ := Asm.directive_spec h
  · exact hw
  · exact hw
  · exact Asm.emits_wf hs s hw

/-- Everything an instruction's line can do: the three hexads of a word of the instruction emitted. -/
theorem Asm.instr_spec {s t : Asm} {i : Instr} (h : s.instr i = some t) :
    ∃ w, s.encoding.encode i = some w ∧ t = s.emits (wordHexads w) := by
  simp only [Asm.instr, Option.map_eq_some_iff] at h
  obtain ⟨w, hw, rfl⟩ := h
  exact ⟨w, hw, rfl⟩

/-- Every line keeps the image in canonical form. -/
theorem Asm.line_wf {s t : Asm} {l : Line} (h : s.line l = some t) (hw : s.image.wf) : t.image.wf := by
  have hi : ∀ i, s.instr i = some t → t.image.wf := fun i hi => by
    obtain ⟨w, -, rfl⟩ := Asm.instr_spec hi
    exact Asm.emits_wf _ _ hw
  cases l with
  | directive d => exact Asm.directive_wf h hw
  | instr i => exact hi i h
  | instrOf i x =>
    simp only [Asm.line, Option.bind_eq_some_iff] at h
    obtain ⟨j, -, hj⟩ := h
    exact hi j hj

/-! ## The gathering of constants (R326) -/

/-- Everything a line can give the gathering: nothing, or the value of an `eq` whose name has none. -/
theorem Asm.define_cases (s : Asm) (l : Line) :
    s.define l = s ∨ ∃ x n v, l = .directive (.eq x n) ∧ s.lookup x = none ∧ s.value n = some v ∧
      s.define l = { s with consts := (x, v) :: s.consts } := by
  cases l with
  | instr i => exact .inl rfl
  | instrOf i x => exact .inl rfl
  | directive d =>
    cases d
    case eq x n =>
      cases hx : s.lookup x <;> cases hn : s.value n <;> simp [Asm.define, hx, hn]
    all_goals exact .inl rfl

/-- A name that has a value keeps it. -/
theorem Asm.define_lookup {s : Asm} {x : String} {v : Int} (l : Line) (h : s.lookup x = some v) :
    (s.define l).lookup x = some v := by
  obtain e | ⟨y, n, k, -, hy, -, e⟩ := Asm.define_cases s l <;> rw [e]
  · exact h
  · have hne : y ≠ x := fun c => by rw [c, h] at hy; cases hy
    simpa [Asm.lookup, hne] using h

theorem Asm.foldl_define_lookup {s : Asm} {x : String} {v : Int} (ls : List Line) (h : s.lookup x = some v) :
    (ls.foldl Asm.define s).lookup x = some v := by
  induction ls generalizing s with
  | nil => exact h
  | cons l ls ih => exact ih (Asm.define_lookup l h)

theorem Asm.foldl_define_value {s : Asm} {n : AsmOperand} {v : Int} (ls : List Line) (h : s.value n = some v) :
    (ls.foldl Asm.define s).value n = some v := by
  cases n with
  | lit k => exact h
  | name x => exact Asm.foldl_define_lookup ls h

/-- Every name whose `eq` has an operand with a value has a value itself. -/
abbrev Asm.Closed (s : Asm) (ls : List Line) : Prop :=
  ∀ x n, .directive (.eq x n) ∈ ls → s.value n ≠ none → s.lookup x ≠ none

/-- A pass over the lines gives a value to every name whose operand had one. -/
theorem Asm.foldl_define_defines {s : Asm} {x : String} {n : AsmOperand} {ls : List Line}
    (hl : .directive (.eq x n) ∈ ls) (h : s.value n ≠ none) : (ls.foldl Asm.define s).lookup x ≠ none := by
  obtain ⟨a, b, rfl⟩ := List.append_of_mem hl
  obtain ⟨k, hk⟩ := Option.ne_none_iff_exists'.1 h
  rw [List.foldl_append, List.foldl_cons]
  have hv := Asm.foldl_define_value a hk
  cases hx : (a.foldl Asm.define s).lookup x with
  | some v => rw [Asm.foldl_define_lookup b (Asm.define_lookup _ hx)]; simp
  | none =>
    have e : ((a.foldl Asm.define s).define (.directive (.eq x n))).lookup x = some k := by
      simp only [Asm.define, hx, hv]
      simp [Asm.lookup]
    rw [Asm.foldl_define_lookup b e]; simp

/-- A pass over the lines of a closed state changes nothing. -/
theorem Asm.foldl_define_closed {s : Asm} {ls : List Line} (h : s.Closed ls) : ls.foldl Asm.define s = s := by
  suffices ∀ ks : List Line, (∀ l ∈ ks, l ∈ ls) → ks.foldl Asm.define s = s from this ls (fun _ hl => hl)
  intro ks hk
  induction ks with
  | nil => rfl
  | cons l ks ih =>
    have e : s.define l = s := by
      obtain e | ⟨x, n, v, rfl, hx, hn, -⟩ := Asm.define_cases s l
      · exact e
      · exact absurd hx (h x n (hk _ (by simp)) (by simp [hn]))
    rw [List.foldl_cons, e]
    exact ih (fun m hm => hk m (by simp [hm]))

/-- Whether a line is an `eq` of a name without a value. -/
def Asm.unvalued (s : Asm) : Line → Bool
  | .directive (.eq x _) => (s.lookup x).isNone
  | .directive (.dh _) | .directive (.dw _) | .directive (.db _) | .directive (.ds _) | .directive (.zh _)
  | .directive (.zw _) | .directive (.ad _) | .instr _ | .instrOf _ _ => false

theorem countP_lt_of_mem {α : Type} {p q : α → Bool} {l : List α} {x : α} (hpq : ∀ y, p y = true → q y = true) (hl : x ∈ l)
    (hq : q x = true) (hp : p x = false) : l.countP p < l.countP q := by
  obtain ⟨a, b, rfl⟩ := List.append_of_mem hl
  have ha := List.countP_mono_left (l := a) (fun y _ => hpq y)
  have hb := List.countP_mono_left (l := b) (fun y _ => hpq y)
  simp only [List.countP_append, List.countP_cons, hq, hp, if_true, Bool.false_eq_true, if_false]
  omega

/-- A pass gives no name back. -/
theorem Asm.unvalued_of_foldl {s : Asm} {ls : List Line} (l : Line) (h : (ls.foldl Asm.define s).unvalued l = true) :
    s.unvalued l = true := by
  cases l with
  | instr i => exact h
  | instrOf i x => exact h
  | directive d =>
    cases d
    case eq x n =>
      cases hx : s.lookup x with
      | none => simp [Asm.unvalued, hx]
      | some v => simp [Asm.unvalued, Asm.foldl_define_lookup ls hx] at h
    all_goals exact h

theorem Asm.passes_closed_of_closed {s : Asm} {ls : List Line} (h : s.Closed ls) (n : Nat) : (s.passes ls n).Closed ls := by
  induction n with
  | zero => exact h
  | succ n ih => rw [Asm.passes, Asm.foldl_define_closed h]; exact ih

theorem Asm.passes_closed (ls : List Line) (n : Nat) (s : Asm) (h : ls.countP s.unvalued ≤ n) :
    (s.passes ls n).Closed ls := by
  by_cases hc : s.Closed ls
  · exact Asm.passes_closed_of_closed hc n
  · simp only [Asm.Closed] at hc
    push Not at hc
    obtain ⟨x, m, hl, hm, hx⟩ := hc
    have hlt : ls.countP (ls.foldl Asm.define s).unvalued < ls.countP s.unvalued := by
      refine countP_lt_of_mem Asm.unvalued_of_foldl hl (by simp [Asm.unvalued, hx]) ?_
      obtain ⟨v, hv⟩ := Option.ne_none_iff_exists'.1 (Asm.foldl_define_defines hl hm)
      simp [Asm.unvalued, hv]
    cases n with
    | zero => omega
    | succ n => exact Asm.passes_closed ls n _ (by omega)

/-- R326, at any point: after the constants are gathered, every name has a value for which an `eq` of the program has an operand
with a value. -/
theorem Asm.gather_closed (s : Asm) (ls : List Line) : (s.gather ls).Closed ls :=
  Asm.passes_closed ls ls.length s List.countP_le_length

/-- One word emitted: its hexads stand at the current location as R63 stores a word, and the location is 3 further. -/
theorem Asm.emits_word (s : Asm) (m : State) (w : Word) (h : m.mem = s.image) :
    (s.emits (wordHexads w)).image = (m.writeWord s.loc w).mem ∧
      (s.emits (wordHexads w)).loc = Bt.plus s.loc 3 ∧ (s.emits (wordHexads w)).consts = s.consts := by
  simp [Asm.emits, Asm.emit, wordHexads, State.writeWord, State.writeHexad, Bt.plus_plus, h]

end Sys2Proof.Machine
end

