-- ==== Sys2Proof/Laws/Decode.lean ====
section
/-!
SUPPORT. The laws of instruction words: the digits and immediates of a word built from digits and an immediate are those it was
built from, and the selectors read back.
-/

namespace Sys2Proof

theorem Digit.val_range (d : Digit) : -13 ≤ d.val ∧ d.val ≤ 13 := by
  cases d <;> decide

@[simp] theorem Digit.check_val (d : Digit) : Digit.check d.val = some d := by
  cases d <;> decide

@[simp] theorem Flag.check_sel (f : Flag) : Flag.check f.sel = some f := by
  cases f <;> decide

@[simp] theorem SysReg.check_sel (k : SysReg) : SysReg.check k.sel = some k := by
  cases k <;> decide

@[simp] theorem Bt.check_val {n : Nat} (w : Bt n) : Bt.check n w.val = some w := by
  unfold Bt.check
  rw [dif_pos ⟨w.lo, w.hi⟩]

/-- The digit of the low three trits, whatever stands above them (R94). -/
@[simp] theorem Digit.ofInt_add (d : Digit) (k : Int) : Digit.ofInt (d.val + 27 * k) = d := by
  have h := d.val_range
  have u := (bt_unique (n := 3) (x := d.val) (k := k) (by simpa using h.1) (by simpa using h.2) rfl).1
  simp only [pow3_three] at u
  rw [Digit.ofInt, u, Digit.check_val]; rfl

@[simp] theorem Digit.ofInt_val (d : Digit) : Digit.ofInt d.val = d := by
  have := Digit.ofInt_add d 0
  simpa using this

/-- The digit of an integer denotes its low three trits (R4). -/
theorem Digit.val_ofInt (v : Int) : (Digit.ofInt v).val = bt 3 v := by
  have h1 := neg_half_le_bt 3 v
  have h2 := bt_le_half 3 v
  rw [half_three] at h1 h2
  unfold Digit.ofInt
  generalize bt 3 v = x at *
  interval_cases x <;> decide

@[simp] theorem Flag.digit_val (f : Flag) : f.digit.val = f.sel := by
  cases f <;> decide

@[simp] theorem SysReg.digit_val (k : SysReg) : k.digit.val = k.sel := by
  cases k <;> decide

/-- Everything above the low digit of a sum of digits. -/
@[simp] theorem shiftOut_digit (d : Digit) (k : Int) : shiftOut (d.val + 27 * k) 3 = k := by
  have h := d.val_range
  exact (bt_unique (n := 3) (x := d.val) (k := k) (by simpa using h.1) (by simpa using h.2) rfl).2

/-- Everything above the low `n` trits of a sum. -/
theorem shiftOut_low {n : Nat} (x : Bt n) (k : Int) : shiftOut (x.val + pow3 n * k) n = k :=
  (bt_unique x.lo x.hi rfl).2

theorem bt_low {n : Nat} (x : Bt n) (k : Int) : bt n (x.val + pow3 n * k) = x.val :=
  (bt_unique x.lo x.hi rfl).1

theorem word6_val (d5 d4 d3 d2 d1 d0 : Digit) : (word6 d5 d4 d3 d2 d1 d0).val =
    d0.val + 27 * (d1.val + 27 * (d2.val + 27 * (d3.val + 27 * (d4.val + 27 * d5.val)))) := by
  have := d0.val_range; have := d1.val_range; have := d2.val_range
  have := d3.val_range; have := d4.val_range; have := d5.val_range
  rw [word6, Bt.ofInt_val, bt_of_range] <;> simp only [half_eighteen] <;> omega

theorem wordI_val (d5 d4 d3 d2 : Digit) (imm : Hexad) : (wordI d5 d4 d3 d2 imm).val =
    imm.val + pow3 6 * (d2.val + 27 * (d3.val + 27 * (d4.val + 27 * d5.val))) := by
  have h1 := imm.lo; have h2 := imm.hi; have := d2.val_range
  have := d3.val_range; have := d4.val_range; have := d5.val_range
  simp only [half_six] at h1 h2
  rw [wordI, Bt.ofInt_val, pow3_six, bt_of_range] <;> simp only [half_eighteen] <;> omega

theorem wordW_val (d5 d4 d3 : Digit) (imm : Nonad) : (wordW d5 d4 d3 imm).val =
    imm.val + pow3 9 * (d3.val + 27 * (d4.val + 27 * d5.val)) := by
  have h1 := imm.lo; have h2 := imm.hi
  have := d3.val_range; have := d4.val_range; have := d5.val_range
  simp only [half_nine] at h1 h2
  rw [wordW, Bt.ofInt_val, pow3_nine, bt_of_range] <;> simp only [half_eighteen] <;> omega

theorem wordA_val (d5 d4 : Digit) (imm : Addr) : (wordA d5 d4 imm).val =
    imm.val + pow3 12 * (d4.val + 27 * d5.val) := by
  have h1 := imm.lo; have h2 := imm.hi
  have := d4.val_range; have := d5.val_range
  simp only [half_twelve] at h1 h2
  rw [wordA, Bt.ofInt_val, pow3_twelve, bt_of_range] <;> simp only [half_eighteen] <;> omega

theorem wordX_val (d5 : Digit) (rest : Bt 15) : (wordX d5 rest).val = rest.val + pow3 15 * d5.val := by
  have h1 := rest.lo; have h2 := rest.hi; have := d5.val_range
  simp only [half_fifteen] at h1 h2
  rw [wordX, Bt.ofInt_val, pow3_fifteen, bt_of_range] <;> simp only [half_eighteen] <;> omega

theorem shiftOut_six (v : Int) : shiftOut v 6 = shiftOut (shiftOut v 3) 3 := (shiftOut_shiftOut v 3 3).symm
theorem shiftOut_nine (v : Int) : shiftOut v 9 = shiftOut (shiftOut v 6) 3 := (shiftOut_shiftOut v 6 3).symm
theorem shiftOut_twelve (v : Int) : shiftOut v 12 = shiftOut (shiftOut v 9) 3 := (shiftOut_shiftOut v 9 3).symm
theorem shiftOut_fifteen (v : Int) : shiftOut v 15 = shiftOut (shiftOut v 12) 3 := (shiftOut_shiftOut v 12 3).symm

/-- The digits of a word written as six digits (R94). -/
theorem digit_word6 (d5 d4 d3 d2 d1 d0 : Digit) :
    (word6 d5 d4 d3 d2 d1 d0).digit 5 = d5 ∧ (word6 d5 d4 d3 d2 d1 d0).digit 4 = d4 ∧
      (word6 d5 d4 d3 d2 d1 d0).digit 3 = d3 ∧ (word6 d5 d4 d3 d2 d1 d0).digit 2 = d2 ∧
      (word6 d5 d4 d3 d2 d1 d0).digit 1 = d1 ∧ (word6 d5 d4 d3 d2 d1 d0).digit 0 = d0 := by
  simp [Bt.digit, word6_val, shiftOut_fifteen, shiftOut_twelve, shiftOut_nine, shiftOut_six]

/-- The fields of a word of format I (R95). -/
theorem fields_wordI (d5 d4 d3 d2 : Digit) (imm : Hexad) :
    (wordI d5 d4 d3 d2 imm).digit 5 = d5 ∧ (wordI d5 d4 d3 d2 imm).digit 4 = d4 ∧
      (wordI d5 d4 d3 d2 imm).digit 3 = d3 ∧ (wordI d5 d4 d3 d2 imm).digit 2 = d2 ∧
      (wordI d5 d4 d3 d2 imm).imm6 = imm := by
  refine ⟨?_, ?_, ?_, ?_, ?_⟩
  · simp [Bt.digit, wordI_val, shiftOut_fifteen, shiftOut_twelve, shiftOut_nine, shiftOut_low, -pow3_six]
  · simp [Bt.digit, wordI_val, shiftOut_twelve, shiftOut_nine, shiftOut_low, -pow3_six]
  · simp [Bt.digit, wordI_val, shiftOut_nine, shiftOut_low, -pow3_six]
  · simp [Bt.digit, wordI_val, shiftOut_low, -pow3_six]
  · exact Bt.ext (by rw [Bt.imm6, Bt.ofInt_val, wordI_val, bt_low])

/-- The fields of a word of format W (R95). -/
theorem fields_wordW (d5 d4 d3 : Digit) (imm : Nonad) :
    (wordW d5 d4 d3 imm).digit 5 = d5 ∧ (wordW d5 d4 d3 imm).digit 4 = d4 ∧
      (wordW d5 d4 d3 imm).digit 3 = d3 ∧ (wordW d5 d4 d3 imm).imm9 = imm := by
  refine ⟨?_, ?_, ?_, ?_⟩
  · simp [Bt.digit, wordW_val, shiftOut_fifteen, shiftOut_twelve, shiftOut_low, -pow3_nine]
  · simp [Bt.digit, wordW_val, shiftOut_twelve, shiftOut_low, -pow3_nine]
  · simp [Bt.digit, wordW_val, shiftOut_low, -pow3_nine]
  · exact Bt.ext (by rw [Bt.imm9, Bt.ofInt_val, wordW_val, bt_low])

/-- The fields of a word of format A (R95). -/
theorem fields_wordA (d5 d4 : Digit) (imm : Addr) :
    (wordA d5 d4 imm).digit 5 = d5 ∧ (wordA d5 d4 imm).digit 4 = d4 ∧ (wordA d5 d4 imm).imm12 = imm := by
  refine ⟨?_, ?_, ?_⟩
  · simp [Bt.digit, wordA_val, shiftOut_fifteen, shiftOut_low, -pow3_twelve]
  · simp [Bt.digit, wordA_val, shiftOut_low, -pow3_twelve]
  · exact Bt.ext (by rw [Bt.imm12, Bt.ofInt_val, wordA_val, bt_low])

/-- The fields of a word of `ldx`, `stx` or `und` (R107, R108). -/
theorem fields_wordX (d5 : Digit) (rest : Bt 15) :
    (wordX d5 rest).digit 5 = d5 ∧ (wordX d5 rest).rest15 = rest := by
  refine ⟨?_, ?_⟩
  · simp [Bt.digit, wordX_val, shiftOut_low, -pow3_fifteen]
  · exact Bt.ext (by rw [Bt.rest15, Bt.ofInt_val, wordX_val, bt_low])

/-! ## The parameter `ENCODING` (R91) -/

@[simp] theorem Encoding.decode_specEnc1 (w : Word) : Encoding.specEnc1.decode w = Sys2Proof.decode w := rfl

@[simp] theorem Encoding.encode_specEnc1 (i : Instr) : Encoding.specEnc1.encode i = some (Sys2Proof.encode i.written) := rfl

/-- Everything a table of words can answer: the instruction of the word's first row, or that the word has no row. -/
theorem Encoding.decode_table (rows : List (Word × Instr)) (w : Word) :
    (∃ i, (w, i) ∈ rows ∧ (Encoding.table rows).decode w = .ok i) ∨
      ((∀ i, (w, i) ∉ rows) ∧ (Encoding.table rows).decode w = .error .notInEncoding) := by
  cases h : rows.find? (fun r => decide (r.1 = w)) with
  | some r =>
    have hr : r.1 = w := by simpa using List.find?_some h
    exact .inl ⟨r.2, by rw [← hr]; exact List.mem_of_find?_eq_some h, by simp only [Encoding.decode, h]⟩
  | none =>
    refine .inr ⟨fun i hi => ?_, by simp only [Encoding.decode, h]⟩
    simpa using List.find?_eq_none.1 h _ hi

/-- The trits of `ldx`, `stx` and `und` are all that writing an instruction drops. -/
theorem Instr.written_eq (i : Instr) :
    i.written = i ∨ ∃ rest, i = .ldx rest ∨ i = .stx rest ∨ i = .und rest := by
  cases i
  case ldx rest => exact .inr ⟨rest, .inl rfl⟩
  case stx rest => exact .inr ⟨rest, .inr (.inl rfl)⟩
  case und rest => exact .inr ⟨rest, .inr (.inr rfl)⟩
  all_goals exact .inl rfl

@[simp] theorem Instr.written_und (rest : Bt 15) : (Instr.und rest).written = .und (Bt.ofInt 15 0) := rfl

/-- The word the assembler writes under a table decodes to an instruction written alike. -/
theorem Encoding.decode_encode_table {rows : List (Word × Instr)} {i : Instr} {w : Word}
    (h : (Encoding.table rows).encode i = some w) :
    ∃ j, (Encoding.table rows).decode w = .ok j ∧ j.written = i.written := by
  have hw := List.find?_some h
  cases hd : (Encoding.table rows).decode w with
  | ok j => exact ⟨j, rfl, by simpa [hd] using hw⟩
  | error e => simp [hd] at hw

/-- Under a table an instruction has a word the assembler writes when some word decodes to an instruction written alike. -/
theorem Encoding.encode_table_isSome {rows : List (Word × Instr)} {i j : Instr} {w : Word}
    (h : (Encoding.table rows).decode w = .ok j) (hj : j.written = i.written) :
    ((Encoding.table rows).encode i).isSome := by
  obtain ⟨k, hk, hd⟩ | ⟨-, hd⟩ := Encoding.decode_table rows w
  · refine List.find?_isSome.2 ⟨w, List.mem_map.2 ⟨_, hk, rfl⟩, ?_⟩
    simpa [h] using hj
  · rw [h] at hd; cases hd

/-- SPEC-ENC-1 has a word of `und`, as R107 asks. -/
theorem Encoding.lawful_specEnc1 : Encoding.specEnc1.Lawful := by
  refine ⟨wordX .z (Bt.ofInt 15 0), Bt.ofInt 15 0, ?_⟩
  obtain ⟨h1, h2⟩ := fields_wordX .z (Bt.ofInt 15 0)
  simp [Sys2Proof.decode, h1, h2]

end Sys2Proof
end

