-- ==== Sys2Proof/Laws/PerInstr.lean ====
section
/-!
SUPPORT. The family `Fits`: every term of `Instr` has its operands in the ranges the spec gives them (R92, R103, R104), one lemma
for each constructor.
-/

namespace Sys2Proof.Laws

/-- The operands of the instruction lie in the ranges of R92, R103 and R104. -/
def Fits.Statement (i : Instr) : Prop :=
  i.WellFormed

theorem Fits.nop : Fits.Statement .nop := by simp [Fits.Statement, Instr.WellFormed]
theorem Fits.brk : Fits.Statement .brk := by simp [Fits.Statement, Instr.WellFormed]
theorem Fits.ret : Fits.Statement .ret := by simp [Fits.Statement, Instr.WellFormed]
theorem Fits.srt : Fits.Statement .srt := by simp [Fits.Statement, Instr.WellFormed]
theorem Fits.brr (a : Reg) : Fits.Statement (.brr a) := by simp [Fits.Statement, Instr.WellFormed]
theorem Fits.caa (a : Reg) : Fits.Statement (.caa a) := by simp [Fits.Statement, Instr.WellFormed]
theorem Fits.tbX (a b c : Reg) (f : Flag) : Fits.Statement (.tbX a b c f) := by simp [Fits.Statement, Instr.WellFormed]
theorem Fits.szX (f : Flag) : Fits.Statement (.szX f) := by simp [Fits.Statement, Instr.WellFormed]
theorem Fits.spX (f : Flag) : Fits.Statement (.spX f) := by simp [Fits.Statement, Instr.WellFormed]
theorem Fits.snX (f : Flag) : Fits.Statement (.snX f) := by simp [Fits.Statement, Instr.WellFormed]
theorem Fits.zfX (f : Flag) : Fits.Statement (.zfX f) := by simp [Fits.Statement, Instr.WellFormed]
theorem Fits.pfX (f : Flag) : Fits.Statement (.pfX f) := by simp [Fits.Statement, Instr.WellFormed]
theorem Fits.nfX (f : Flag) : Fits.Statement (.nfX f) := by simp [Fits.Statement, Instr.WellFormed]
theorem Fits.lsr (k : SysReg) (a : Reg) : Fits.Statement (.lsr k a) := by simp [Fits.Statement, Instr.WellFormed]
theorem Fits.ssr (a : Reg) (k : SysReg) : Fits.Statement (.ssr a k) := by simp [Fits.Statement, Instr.WellFormed]
theorem Fits.psh (a : Reg) : Fits.Statement (.psh a) := by simp [Fits.Statement, Instr.WellFormed]
theorem Fits.pop (a : Reg) : Fits.Statement (.pop a) := by simp [Fits.Statement, Instr.WellFormed]
theorem Fits.add (a b c : Reg) : Fits.Statement (.add a b c) := by simp [Fits.Statement, Instr.WellFormed]
theorem Fits.adc (a b c : Reg) : Fits.Statement (.adc a b c) := by simp [Fits.Statement, Instr.WellFormed]
theorem Fits.sub (a b c : Reg) : Fits.Statement (.sub a b c) := by simp [Fits.Statement, Instr.WellFormed]
theorem Fits.sbc (a b c : Reg) : Fits.Statement (.sbc a b c) := by simp [Fits.Statement, Instr.WellFormed]
theorem Fits.mul (a b c : Reg) : Fits.Statement (.mul a b c) := by simp [Fits.Statement, Instr.WellFormed]
theorem Fits.div (a b c : Reg) : Fits.Statement (.div a b c) := by simp [Fits.Statement, Instr.WellFormed]
theorem Fits.cmp (a b : Reg) : Fits.Statement (.cmp a b) := by simp [Fits.Statement, Instr.WellFormed]
theorem Fits.min (a b c : Reg) : Fits.Statement (.min a b c) := by simp [Fits.Statement, Instr.WellFormed]
theorem Fits.max (a b c : Reg) : Fits.Statement (.max a b c) := by simp [Fits.Statement, Instr.WellFormed]
theorem Fits.teq (a b c : Reg) : Fits.Statement (.teq a b c) := by simp [Fits.Statement, Instr.WellFormed]
theorem Fits.tem (a b c : Reg) : Fits.Statement (.tem a b c) := by simp [Fits.Statement, Instr.WellFormed]
theorem Fits.sti (a : Reg) : Fits.Statement (.sti a) := by simp [Fits.Statement, Instr.WellFormed]
theorem Fits.pti (a : Reg) : Fits.Statement (.pti a) := by simp [Fits.Statement, Instr.WellFormed]
theorem Fits.nti (a : Reg) : Fits.Statement (.nti a) := by simp [Fits.Statement, Instr.WellFormed]
theorem Fits.bin (a b : Reg) : Fits.Statement (.bin a b) := by simp [Fits.Statement, Instr.WellFormed]
theorem Fits.tri (a b : Reg) : Fits.Statement (.tri a b) := by simp [Fits.Statement, Instr.WellFormed]
theorem Fits.fdr (a b : Reg) : Fits.Statement (.fdr a b) := by simp [Fits.Statement, Instr.WellFormed]
theorem Fits.rdr (a b : Reg) : Fits.Statement (.rdr a b) := by simp [Fits.Statement, Instr.WellFormed]
theorem Fits.lda (a b : Reg) : Fits.Statement (.lda a b) := by simp [Fits.Statement, Instr.WellFormed]
theorem Fits.lal (a b : Reg) : Fits.Statement (.lal a b) := by simp [Fits.Statement, Instr.WellFormed]
theorem Fits.lam (a b : Reg) : Fits.Statement (.lam a b) := by simp [Fits.Statement, Instr.WellFormed]
theorem Fits.lah (a b : Reg) : Fits.Statement (.lah a b) := by simp [Fits.Statement, Instr.WellFormed]
theorem Fits.sta (a b : Reg) : Fits.Statement (.sta a b) := by simp [Fits.Statement, Instr.WellFormed]
theorem Fits.sal (a b : Reg) : Fits.Statement (.sal a b) := by simp [Fits.Statement, Instr.WellFormed]
theorem Fits.sam (a b : Reg) : Fits.Statement (.sam a b) := by simp [Fits.Statement, Instr.WellFormed]
theorem Fits.sah (a b : Reg) : Fits.Statement (.sah a b) := by simp [Fits.Statement, Instr.WellFormed]
theorem Fits.mov (a b : Reg) : Fits.Statement (.mov a b) := by simp [Fits.Statement, Instr.WellFormed]
theorem Fits.xch (a b : Reg) : Fits.Statement (.xch a b) := by simp [Fits.Statement, Instr.WellFormed]
theorem Fits.srz (a : Reg) : Fits.Statement (.srz a) := by simp [Fits.Statement, Instr.WellFormed]
theorem Fits.srp (a : Reg) : Fits.Statement (.srp a) := by simp [Fits.Statement, Instr.WellFormed]
theorem Fits.srn (a : Reg) : Fits.Statement (.srn a) := by simp [Fits.Statement, Instr.WellFormed]
theorem Fits.adi (a b : Reg) (imm : Hexad) : Fits.Statement (.adi a b imm) := by simp [Fits.Statement, Instr.WellFormed, Bt.InRange]
theorem Fits.sbi (a b : Reg) (imm : Hexad) : Fits.Statement (.sbi a b imm) := by simp [Fits.Statement, Instr.WellFormed, Bt.InRange]
theorem Fits.mli (a b : Reg) (imm : Hexad) : Fits.Statement (.mli a b imm) := by simp [Fits.Statement, Instr.WellFormed, Bt.InRange]
theorem Fits.dvi (a b : Reg) (imm : Hexad) : Fits.Statement (.dvi a b imm) := by simp [Fits.Statement, Instr.WellFormed, Bt.InRange]
theorem Fits.cmi (a : Reg) (imm : Hexad) : Fits.Statement (.cmi a imm) := by simp [Fits.Statement, Instr.WellFormed, Bt.InRange]
theorem Fits.shl (a : Reg) (imm : Hexad) : Fits.Statement (.shl a imm) := by simp [Fits.Statement, Instr.WellFormed, Bt.InRange]
theorem Fits.shr (a : Reg) (imm : Hexad) : Fits.Statement (.shr a imm) := by simp [Fits.Statement, Instr.WellFormed, Bt.InRange]
theorem Fits.rol (a : Reg) (imm : Hexad) : Fits.Statement (.rol a imm) := by simp [Fits.Statement, Instr.WellFormed, Bt.InRange]
theorem Fits.ror (a : Reg) (imm : Hexad) : Fits.Statement (.ror a imm) := by simp [Fits.Statement, Instr.WellFormed, Bt.InRange]
theorem Fits.rcl (a : Reg) (imm : Hexad) : Fits.Statement (.rcl a imm) := by simp [Fits.Statement, Instr.WellFormed, Bt.InRange]
theorem Fits.rcr (a : Reg) (imm : Hexad) : Fits.Statement (.rcr a imm) := by simp [Fits.Statement, Instr.WellFormed, Bt.InRange]
theorem Fits.ldi (a : Reg) (imm : Hexad) : Fits.Statement (.ldi a imm) := by simp [Fits.Statement, Instr.WellFormed, Bt.InRange]
theorem Fits.lil (a : Reg) (imm : Hexad) : Fits.Statement (.lil a imm) := by simp [Fits.Statement, Instr.WellFormed, Bt.InRange]
theorem Fits.lim (a : Reg) (imm : Hexad) : Fits.Statement (.lim a imm) := by simp [Fits.Statement, Instr.WellFormed, Bt.InRange]
theorem Fits.lih (a : Reg) (imm : Hexad) : Fits.Statement (.lih a imm) := by simp [Fits.Statement, Instr.WellFormed, Bt.InRange]
theorem Fits.ldn (a : Reg) (imm : Hexad) : Fits.Statement (.ldn a imm) := by simp [Fits.Statement, Instr.WellFormed, Bt.InRange]
theorem Fits.stn (a : Reg) (imm : Hexad) : Fits.Statement (.stn a imm) := by simp [Fits.Statement, Instr.WellFormed, Bt.InRange]
theorem Fits.bri (a : Reg) (imm : Hexad) : Fits.Statement (.bri a imm) := by simp [Fits.Statement, Instr.WellFormed, Bt.InRange]
theorem Fits.brs (imm : Hexad) : Fits.Statement (.brs imm) := by simp [Fits.Statement, Instr.WellFormed, Bt.InRange]
theorem Fits.sys (imm : Hexad) : Fits.Statement (.sys imm) := by simp [Fits.Statement, Instr.WellFormed, Bt.InRange]
theorem Fits.pad (a : Reg) (imm : Nonad) : Fits.Statement (.pad a imm) := by simp [Fits.Statement, Instr.WellFormed, Bt.InRange]
theorem Fits.psb (a : Reg) (imm : Nonad) : Fits.Statement (.psb a imm) := by simp [Fits.Statement, Instr.WellFormed, Bt.InRange]
theorem Fits.pmu (a : Reg) (imm : Nonad) : Fits.Statement (.pmu a imm) := by simp [Fits.Statement, Instr.WellFormed, Bt.InRange]
theorem Fits.pdv (a : Reg) (imm : Nonad) : Fits.Statement (.pdv a imm) := by simp [Fits.Statement, Instr.WellFormed, Bt.InRange]
theorem Fits.int (a : Reg) (imm : Nonad) : Fits.Statement (.int a imm) := by simp [Fits.Statement, Instr.WellFormed, Bt.InRange]
theorem Fits.inb (a : Reg) (imm : Nonad) : Fits.Statement (.inb a imm) := by simp [Fits.Statement, Instr.WellFormed, Bt.InRange]
theorem Fits.out (a : Reg) (imm : Nonad) : Fits.Statement (.out a imm) := by simp [Fits.Statement, Instr.WellFormed, Bt.InRange]
theorem Fits.oub (a : Reg) (imm : Nonad) : Fits.Statement (.oub a imm) := by simp [Fits.Statement, Instr.WellFormed, Bt.InRange]
theorem Fits.ldr (a : Reg) (imm : Addr) : Fits.Statement (.ldr a imm) := by simp [Fits.Statement, Instr.WellFormed, Bt.InRange]
theorem Fits.ldl (a : Reg) (imm : Addr) : Fits.Statement (.ldl a imm) := by simp [Fits.Statement, Instr.WellFormed, Bt.InRange]
theorem Fits.ldm (a : Reg) (imm : Addr) : Fits.Statement (.ldm a imm) := by simp [Fits.Statement, Instr.WellFormed, Bt.InRange]
theorem Fits.ldh (a : Reg) (imm : Addr) : Fits.Statement (.ldh a imm) := by simp [Fits.Statement, Instr.WellFormed, Bt.InRange]
theorem Fits.str (a : Reg) (imm : Addr) : Fits.Statement (.str a imm) := by simp [Fits.Statement, Instr.WellFormed, Bt.InRange]
theorem Fits.stl (a : Reg) (imm : Addr) : Fits.Statement (.stl a imm) := by simp [Fits.Statement, Instr.WellFormed, Bt.InRange]
theorem Fits.stm (a : Reg) (imm : Addr) : Fits.Statement (.stm a imm) := by simp [Fits.Statement, Instr.WellFormed, Bt.InRange]
theorem Fits.sth (a : Reg) (imm : Addr) : Fits.Statement (.sth a imm) := by simp [Fits.Statement, Instr.WellFormed, Bt.InRange]
theorem Fits.lad (imm : Addr) : Fits.Statement (.lad imm) := by simp [Fits.Statement, Instr.WellFormed, Bt.InRange]
theorem Fits.bra (imm : Addr) : Fits.Statement (.bra imm) := by simp [Fits.Statement, Instr.WellFormed, Bt.InRange]
theorem Fits.brl (imm : Addr) : Fits.Statement (.brl imm) := by simp [Fits.Statement, Instr.WellFormed, Bt.InRange]
theorem Fits.cal (imm : Addr) : Fits.Statement (.cal imm) := by simp [Fits.Statement, Instr.WellFormed, Bt.InRange]
theorem Fits.car (imm : Addr) : Fits.Statement (.car imm) := by simp [Fits.Statement, Instr.WellFormed, Bt.InRange]
theorem Fits.bzX (f : Flag) (imm : Addr) : Fits.Statement (.bzX f imm) := by simp [Fits.Statement, Instr.WellFormed, Bt.InRange]
theorem Fits.bpX (f : Flag) (imm : Addr) : Fits.Statement (.bpX f imm) := by simp [Fits.Statement, Instr.WellFormed, Bt.InRange]
theorem Fits.bnX (f : Flag) (imm : Addr) : Fits.Statement (.bnX f imm) := by simp [Fits.Statement, Instr.WellFormed, Bt.InRange]
theorem Fits.ldx (rest : Bt 15) : Fits.Statement (.ldx rest) := by simp [Fits.Statement, Instr.WellFormed, Bt.InRange]
theorem Fits.stx (rest : Bt 15) : Fits.Statement (.stx rest) := by simp [Fits.Statement, Instr.WellFormed, Bt.InRange]
theorem Fits.und (rest : Bt 15) : Fits.Statement (.und rest) := by simp [Fits.Statement, Instr.WellFormed, Bt.InRange]

end Sys2Proof.Laws
end

