-- ==== Sys2Proof/Tests/Slice0.lean ====
section
/-!
SUPPORT. The model's own tests: the checks of WellFormed.lean refuse ill-formed operands; words written digit by digit from the
tables of 30_encoding.md decode to their instructions; one step on the vectors of 95_test_vectors.md gives what the vectors say;
and, for every statement with hypotheses, a state and operands that meet them.
-/

open Sys2Proof Sys2Proof.Machine

namespace Sys2Proof.Tests

/-! ## Helpers -/

/-- The word spelled by six base-27 digits, the highest first (R4). -/
def lit (ds : List Digit) : Word :=
  toWord (numeral ds)

/-- The vectors' state: the state after reset with the given IP, and with the given registers, system registers, flags and
hexads of memory. -/
def vec (ip : Int) (regs : List (Digit × Int)) (sysRegs : List (SysReg × Int)) (flags : List (Flag × Trit))
    (mem : List (Int × Int)) : State :=
  let s : State := { State.reset with ip := Bt.ofInt 12 ip }
  let s := regs.foldl (fun s x => s.put x.1 x.2) s
  let s := sysRegs.foldl (fun s x => s.sysWrite x.1 (toWord x.2)) s
  let s := flags.foldl (fun s x => s.setFlag x.1 x.2) s
  mem.foldl (fun s x => s.writeHexad (Bt.ofInt 12 x.1) (Bt.ofInt 6 x.2)) s

/-- What is seen of the state after one step. -/
def look (s : State) (seen : List (State → Int)) : Option (List Int) :=
  match step s with
  | .next t => some (seen.map fun f => f t)
  | .fault _ => none
  | .refused _ => none

/-- What is seen of the state after one step that runs the given word, placed where the step fetches. -/
def after (word : List Digit) (s : State) (seen : List (State → Int)) : Option (List Int) :=
  look (s.writeWord s.ip (lit word)) seen

/-- A user register. -/
def reg (d : Digit) (t : State) : Int := (t.get d).val

/-- A flag. -/
def flg (f : Flag) (t : State) : Int := (t.flag f).toInt

/-- A system register. -/
def sys (k : SysReg) (t : State) : Int := (t.sysRead k).val

/-- A hexad of memory. -/
def hex (a : Int) (t : State) : Int := (t.readHexad (Bt.ofInt 12 a)).val

/-- The I/O log as numbers: address, 1 for a binary transfer and 0 for a ternary one, the Binary flag, the word. -/
def logged (s : State) : Option (List (List Int)) :=
  match step s with
  | .next t => some (t.ioLog.map fun
    | .read a k b w => [a.val, if k = .binary then 1 else 0, b.toInt, w.val]
    | .write a k v b => [a.val, if k = .binary then 1 else 0, b.toInt, v.val])
  | .fault _ => none
  | .refused _ => none

/-! ## Ill-formed operands are refused (WellFormed.lean) -/

theorem test_wellformed_hexad : Bt.check 6 365 = none ∧ Bt.check 6 (-365) = none ∧ (Bt.check 6 364).isSome := by decide

theorem test_wellformed_nonad : Bt.check 9 9842 = none ∧ Bt.check 9 (-9842) = none ∧ (Bt.check 9 (-9841)).isSome := by decide

theorem test_wellformed_addr : Bt.check 12 265721 = none ∧ Bt.check 12 (-265721) = none ∧ (Bt.check 12 265720).isSome := by
  decide

theorem test_wellformed_rest : Bt.check 15 7174454 = none ∧ Bt.check 15 (-7174454) = none ∧ (Bt.check 15 7174453).isSome := by
  decide

theorem test_wellformed_byte_and_count :
    byteCheck 256 = none ∧ byteCheck (-1) = none ∧ byteCheck 255 = some 255 ∧ countCheck (-1) = none ∧ countCheck 0 = some 0 := by
  decide

theorem test_wellformed_word : Bt.check 18 193710245 = none ∧ Bt.check 18 (-193710245) = none := by decide

theorem test_wellformed_digit : Digit.check 14 = none ∧ Digit.check (-14) = none ∧ Digit.check (-13) = some .z := by decide

theorem test_wellformed_flag : Flag.check 3 = none ∧ Flag.check 4 = none ∧ Flag.check 10 = none ∧ Flag.check (-1) = none ∧
    Flag.check 9 = some .p := by decide

theorem test_wellformed_sysreg : SysReg.check 5 = none ∧ SysReg.check (-5) = none ∧ SysReg.check (-4) = some .dr4 := by decide

/-! ## Decoding -/

/-- Format S: one word of every instruction, its digits as the tables of 30_encoding.md give them. -/
theorem test_decode_format_S :
    (([([.zero, .zero, .zero, .zero, .zero, .zero], .nop),
      ([.zero, .A, .zero, .zero, .zero, .zero], .brk),
      ([.zero, .B, .zero, .zero, .zero, .zero], .ret),
      ([.zero, .C, .zero, .zero, .zero, .zero], .srt),
      ([.zero, .D, .A, .zero, .zero, .zero], .brr .A),
      ([.zero, .E, .n, .zero, .zero, .zero], .caa .n),
      ([.zero, .F, .z, .M, .q, .zero], .tbX .z .M .q .c),
      ([.zero, .G, .zero, .zero, .zero, .A], .szX .s),
      ([.zero, .H, .zero, .zero, .zero, .B], .spX .d),
      ([.zero, .I, .zero, .zero, .zero, .E], .snX .a),
      ([.zero, .J, .zero, .zero, .zero, .F], .zfX .b),
      ([.zero, .K, .zero, .zero, .zero, .G], .pfX .t),
      ([.zero, .L, .zero, .zero, .zero, .H], .nfX .i),
      ([.zero, .M, .A, .G, .zero, .zero], .lsr .cr1 .G),
      ([.zero, .n, .x, .B, .zero, .zero], .ssr .x .cr2),
      ([.zero, .o, .s, .zero, .zero, .zero], .psh .s),
      ([.zero, .p, .B, .zero, .zero, .zero], .pop .B)] : List (List Digit × Instr)).all fun p =>
      decide (decode (lit p.1) = .ok p.2)) = true := by decide

/-- Format R: one word of every instruction, its digits as the tables of 30_encoding.md give them. -/
theorem test_decode_format_R :
    (([([.A, .A, .p, .u, .K, .zero], .add .p .u .K),
      ([.A, .B, .w, .J, .A, .zero], .adc .w .J .A),
      ([.A, .C, .n, .z, .M, .zero], .sub .n .z .M),
      ([.A, .D, .q, .G, .x, .zero], .sbc .q .G .x),
      ([.A, .E, .s, .B, .p, .zero], .mul .s .B .p),
      ([.A, .F, .u, .K, .w, .zero], .div .u .K .w),
      ([.A, .G, .J, .A, .zero, .zero], .cmp .J .A),
      ([.A, .H, .n, .z, .M, .zero], .min .n .z .M),
      ([.A, .I, .q, .G, .x, .zero], .max .q .G .x),
      ([.A, .J, .s, .B, .p, .zero], .teq .s .B .p),
      ([.A, .K, .u, .K, .w, .zero], .tem .u .K .w),
      ([.A, .L, .J, .zero, .zero, .zero], .sti .J),
      ([.A, .M, .A, .zero, .zero, .zero], .pti .A),
      ([.A, .n, .n, .zero, .zero, .zero], .nti .n),
      ([.A, .o, .z, .M, .zero, .zero], .bin .z .M),
      ([.A, .p, .q, .G, .zero, .zero], .tri .q .G),
      ([.A, .q, .x, .s, .zero, .zero], .fdr .x .s),
      ([.A, .r, .B, .p, .zero, .zero], .rdr .B .p)] : List (List Digit × Instr)).all fun p =>
      decide (decode (lit p.1) = .ok p.2)) = true := by decide

/-- Format M: one word of every instruction, its digits as the tables of 30_encoding.md give them. -/
theorem test_decode_format_M :
    (([([.B, .A, .u, .K, .zero, .zero], .lda .u .K),
      ([.B, .B, .w, .J, .zero, .zero], .lal .w .J),
      ([.B, .C, .A, .n, .zero, .zero], .lam .A .n),
      ([.B, .D, .z, .M, .zero, .zero], .lah .z .M),
      ([.B, .E, .q, .G, .zero, .zero], .sta .q .G),
      ([.B, .F, .x, .s, .zero, .zero], .sal .x .s),
      ([.B, .G, .B, .p, .zero, .zero], .sam .B .p),
      ([.B, .H, .u, .K, .zero, .zero], .sah .u .K),
      ([.B, .I, .w, .J, .zero, .zero], .mov .w .J),
      ([.B, .J, .A, .n, .zero, .zero], .xch .A .n),
      ([.B, .K, .z, .zero, .zero, .zero], .srz .z),
      ([.B, .L, .M, .zero, .zero, .zero], .srp .M),
      ([.B, .M, .q, .zero, .zero, .zero], .srn .q)] : List (List Digit × Instr)).all fun p =>
      decide (decode (lit p.1) = .ok p.2)) = true := by decide

/-- Format I: one word of every instruction, its digits as the tables of 30_encoding.md give them. -/
theorem test_decode_format_I :
    (([([.C, .A, .G, .x, .z, .M], .adi .G .x (Bt.ofInt 6 (-338))),
      ([.C, .B, .s, .B, .zero, .n], .sbi .s .B (Bt.ofInt 6 (-1))),
      ([.C, .C, .p, .u, .M, .z], .mli .p .u (Bt.ofInt 6 (338))),
      ([.C, .D, .K, .w, .B, .y], .dvi .K .w (Bt.ofInt 6 (42))),
      ([.C, .E, .J, .zero, .z, .M], .cmi .J (Bt.ofInt 6 (-338))),
      ([.C, .F, .A, .zero, .zero, .n], .shl .A (Bt.ofInt 6 (-1))),
      ([.C, .G, .n, .zero, .M, .z], .shr .n (Bt.ofInt 6 (338))),
      ([.C, .H, .z, .zero, .B, .y], .rol .z (Bt.ofInt 6 (42))),
      ([.C, .I, .M, .zero, .z, .M], .ror .M (Bt.ofInt 6 (-338))),
      ([.C, .J, .q, .zero, .zero, .n], .rcl .q (Bt.ofInt 6 (-1))),
      ([.C, .K, .G, .zero, .M, .z], .rcr .G (Bt.ofInt 6 (338))),
      ([.C, .L, .x, .zero, .B, .y], .ldi .x (Bt.ofInt 6 (42))),
      ([.C, .M, .s, .zero, .z, .M], .lil .s (Bt.ofInt 6 (-338))),
      ([.C, .n, .B, .zero, .zero, .n], .lim .B (Bt.ofInt 6 (-1))),
      ([.C, .o, .p, .zero, .M, .z], .lih .p (Bt.ofInt 6 (338))),
      ([.C, .p, .u, .zero, .B, .y], .ldn .u (Bt.ofInt 6 (42))),
      ([.C, .q, .K, .zero, .z, .M], .stn .K (Bt.ofInt 6 (-338))),
      ([.C, .r, .w, .zero, .zero, .n], .bri .w (Bt.ofInt 6 (-1))),
      ([.C, .s, .zero, .zero, .M, .z], .brs (Bt.ofInt 6 (338))),
      ([.C, .t, .zero, .zero, .B, .y], .sys (Bt.ofInt 6 (42)))] : List (List Digit × Instr)).all fun p =>
      decide (decode (lit p.1) = .ok p.2)) = true := by decide

/-- Format W: one word of every instruction, its digits as the tables of 30_encoding.md give them. -/
theorem test_decode_format_W :
    (([([.D, .A, .J, .M, .z, .M], .pad .J (Bt.ofInt 9 (9139))),
      ([.D, .B, .A, .z, .A, .M], .psb .A (Bt.ofInt 9 (-9437))),
      ([.D, .C, .n, .zero, .zero, .n], .pmu .n (Bt.ofInt 9 (-1))),
      ([.D, .D, .z, .M, .z, .M], .pdv .z (Bt.ofInt 9 (9139))),
      ([.D, .E, .M, .z, .A, .M], .int .M (Bt.ofInt 9 (-9437))),
      ([.D, .F, .q, .zero, .zero, .n], .inb .q (Bt.ofInt 9 (-1))),
      ([.D, .G, .G, .M, .z, .M], .out .G (Bt.ofInt 9 (9139))),
      ([.D, .H, .x, .z, .A, .M], .oub .x (Bt.ofInt 9 (-9437)))] : List (List Digit × Instr)).all fun p =>
      decide (decode (lit p.1) = .ok p.2)) = true := by decide

/-- Format A: one word of every instruction, its digits as the tables of 30_encoding.md give them. -/
theorem test_decode_format_A :
    (([([.E, .s, .zero, .zero, .zero, .n], .ldr .s (Bt.ofInt 12 (-1))),
      ([.F, .B, .M, .A, .z, .z], .ldl .B (Bt.ofInt 12 (256244))),
      ([.G, .p, .z, .z, .M, .A], .ldm .p (Bt.ofInt 12 (-265004))),
      ([.H, .u, .zero, .zero, .zero, .n], .ldh .u (Bt.ofInt 12 (-1))),
      ([.I, .K, .M, .A, .z, .z], .str .K (Bt.ofInt 12 (256244))),
      ([.J, .w, .z, .z, .M, .A], .stl .w (Bt.ofInt 12 (-265004))),
      ([.K, .J, .zero, .zero, .zero, .n], .stm .J (Bt.ofInt 12 (-1))),
      ([.L, .A, .M, .A, .z, .z], .sth .A (Bt.ofInt 12 (256244))),
      ([.M, .zero, .z, .z, .M, .A], .lad (Bt.ofInt 12 (-265004))),
      ([.n, .zero, .zero, .zero, .zero, .n], .bra (Bt.ofInt 12 (-1))),
      ([.o, .zero, .M, .A, .z, .z], .brl (Bt.ofInt 12 (256244))),
      ([.p, .zero, .z, .z, .M, .A], .cal (Bt.ofInt 12 (-265004))),
      ([.q, .zero, .zero, .zero, .zero, .n], .car (Bt.ofInt 12 (-1))),
      ([.r, .I, .M, .A, .z, .z], .bzX .p (Bt.ofInt 12 (256244))),
      ([.s, .zero, .z, .z, .M, .A], .bpX .c (Bt.ofInt 12 (-265004))),
      ([.t, .A, .zero, .zero, .zero, .n], .bnX .s (Bt.ofInt 12 (-1))),
      ([.x, .z, .A, .B, .n, .M], .ldx (Bt.ofInt 15 (-6887606))),
      ([.y, .z, .A, .B, .n, .M], .stx (Bt.ofInt 15 (-6887606))),
      ([.z, .z, .A, .B, .n, .M], .und (Bt.ofInt 15 (-6887606)))] : List (List Digit × Instr)).all fun p =>
      decide (decode (lit p.1) = .ok p.2)) = true := by decide

/-- Words that spell no instruction (R105, R106): an unassigned major digit, an unassigned minor digit of each format, a field
that must be 0, a digit that selects no flag, and one that selects no system register. -/
theorem test_decode_errors :
    decode (lit [.v, .zero, .zero, .zero, .zero, .zero]) = .error .unassignedMajor ∧
      decode (lit [.zero, .q, .zero, .zero, .zero, .zero]) = .error .unassignedMinor ∧
      decode (lit [.A, .zero, .zero, .zero, .zero, .zero]) = .error .unassignedMinor ∧
      decode (lit [.B, .n, .zero, .zero, .zero, .zero]) = .error .unassignedMinor ∧
      decode (lit [.C, .u, .zero, .zero, .zero, .zero]) = .error .unassignedMinor ∧
      decode (lit [.D, .I, .zero, .zero, .zero, .zero]) = .error .unassignedMinor ∧
      decode (lit [.n, .A, .zero, .zero, .zero, .zero]) = .error .nonzeroField ∧
      decode (lit [.zero, .G, .zero, .zero, .zero, .C]) = .error .noSuchFlag ∧
      decode (lit [.zero, .M, .E, .zero, .zero, .zero]) = .error .noSuchSysReg := by decide

/-- The opcode table's own numbers: `cal` has the `match_value` -43046721, `add` 14880348; a negative number stands as its
32-bit two's complement or as its residue modulo 3^18. -/
theorem test_decode_table_word :
    decodeTableWord 32 (4294967296 - 43046721) = some (.cal (Bt.ofInt 12 0)) ∧
      decodeTableWord 32 (387420489 - 43046721) = some (.cal (Bt.ofInt 12 0)) ∧
      decodeTableWord 32 14880348 = some (.add .zero .zero .zero) := by decide

/-- The instruction `withFetchWord` places is the one the very next step after reset runs: `ssr r0, CR0` raises #PV there. -/
theorem test_with_fetch_word :
    look (State.reset.withFetchWord 32 (4294967296 - 531441)) [sys .cr3, sys .cr0] = some [-265717, -1] ∧
      look (State.reset.withFetchWord 32 0) [sys .cr0] = some [-265717] := by decide

/-! ## The assembler -/

/-- The assembler at address 5, with the constant X = 5, under SPEC-ENC-1. -/
def asm5 : Asm :=
  { encoding := .specEnc1, loc := Bt.ofInt 12 5, consts := [("X", 5)], image := [] }

/-- The hexads a pseudo-instruction inserts. -/
def inserted (d : Directive) : Option (List Int) :=
  (asm5.inserted d).map fun hs => hs.map fun h => h.val

/-- The source's examples of R322, R323 and R325: `dh 1, 2, 3`, `dw -1, -2`, `db 255` = %000qzz, `zw 1`. -/
theorem test_data_directives :
    inserted (.dh [.lit 1, .lit 2, .lit 3]) = some [1, 2, 3] ∧
      inserted (.dw [.lit (-1), .lit (-2)]) = some [-1, 0, 0, -2, 0, 0] ∧
      byteWord 255 = lit [.zero, .zero, .zero, .q, .z, .z] ∧ inserted (.zh (.lit 4)) = some [0, 0, 0, 0] ∧
      inserted (.zw (.lit 1)) = some [0, 0, 0] ∧ inserted (.dh [.lit 365]) = none ∧ inserted (.db (.lit 256)) = none := by
  decide

/-- R324, the first characters of the source's example: %Cv %Dt %D0. R327 and R326: `ad %000n` and `eq X, %ABCD`. -/
theorem test_string_and_state_directives :
    inserted (.ds [72, 101, 108]) = some [numeral [.C, .v], numeral [.D, .t], numeral [.D, .zero]] ∧
      ((asm5.directive (.ad (.lit (-1)))).map fun t => t.loc.val) = some (-1) ∧
      ((asm5.directive (.eq "X" (.lit (numeral [.A, .B, .C, .D])))).bind fun t => t.lookup "X") = some 21226 := by decide

/-- R326: the value of an identifier is substituted, before its `eq` too, in a data directive, in `ad` and in an instruction's
immediate; an identifier that nothing defines is refused. -/
theorem test_eq_substitutes :
    ((asm5.assemble [.directive (.dh [.name "Y"]), .directive (.eq "Y" (.lit 7)), .directive (.ad (.name "Y")),
        .directive (.dw [.name "Y"])]).map fun t =>
          [(t.image.read (Bt.ofInt 12 5)).val, (t.image.read (Bt.ofInt 12 7)).val, t.loc.val]) = some [7, 7, 10] ∧
      ((asm5.line (.instrOf (.adi .A .B (Bt.ofInt 6 0)) "X")).map fun t => (State.reset.launch t).readWord (Bt.ofInt 12 5)) =
        some (lit [.C, .A, .A, .B, .zero, .E]) ∧
      asm5.line (.instrOf (.mov .A .B) "X") = none ∧ asm5.directive (.dh [.name "Y"]) = none := by decide

/-- R326, at any point: `dh A` before `eq A, B` before `eq B, 5`; two names defined by each other have no value. -/
theorem test_eq_in_any_order :
    ((asm5.assemble [.directive (.dh [.name "A"]), .directive (.eq "A" (.name "B")), .directive (.eq "B" (.lit 5))]).map fun t =>
        (t.image.read (Bt.ofInt 12 5)).val) = some 5 ∧
      asm5.assemble [.directive (.eq "A" (.name "B")), .directive (.eq "B" (.name "A"))] = none := by decide

/-- R107 and R308: the assembler writes `und` as %z00000. The opcode table: `ldx` as %x00000. -/
theorem test_und_is_written :
    let word := fun i => (asm5.instr i).map fun t => (State.reset.launch t).readWord (Bt.ofInt 12 5)
    word (.und (Bt.ofInt 15 7)) = some (lit [.z, .zero, .zero, .zero, .zero, .zero]) ∧
      word (.ldx (Bt.ofInt 15 7)) = some (lit [.x, .zero, .zero, .zero, .zero, .zero]) := by decide

/-- R91: under a table the word written is one that decodes to the instruction; the row that an earlier one hides is not taken. -/
theorem test_table_written :
    (Encoding.table [(toWord 7, .brk), (toWord 7, .nop), (toWord 8, .nop), (toWord 9, .und (Bt.ofInt 15 1))]).encode .nop =
        some (toWord 8) ∧
      (Encoding.table [(toWord 9, .und (Bt.ofInt 15 1))]).encode (.und (Bt.ofInt 15 0)) = some (toWord 9) := by decide

/-- R112 and R111: `inc rA` is the word of `pad rA, 1`, `add rA` that of `add rA, rA, rA`. -/
theorem test_synonyms :
    encode (Synonym.inc .A).expand = lit [.D, .A, .A, .zero, .zero, .A] ∧
      encode (Synonym.and .A .B .C).expand = lit [.A, .H, .A, .B, .C, .zero] ∧
      encode (TripleOp.add.one .A) = lit [.A, .A, .A, .A, .A, .zero] ∧
      encode (TripleOp.div.two .A .B) = lit [.A, .F, .A, .B, .B, .zero] ∧
      encode (ImmOp.sbi.one .A (Bt.ofInt 6 123)) = lit [.C, .B, .A, .A, .E, .y] := by decide

/-- R109: the Format lines `ldr %ABCD, r0`, `lsr CR1, r0`, `bzc %00AB`, `int @%ABC, r0`, `add rA, rB, rC` and `ssr r0, DR1`. -/
theorem test_text :
    Instr.text (.ldr .zero (Bt.ofInt 12 21226)) = "ldr %ABCD, r0" ∧ Instr.text (.lsr .cr1 .zero) = "lsr CR1, r0" ∧
      Instr.text (.bzX .c (Bt.ofInt 12 29)) = "bzc %00AB" ∧ Instr.text (.int .zero (Bt.ofInt 9 786)) = "int @%ABC, r0" ∧
      Instr.text (.add .A .B .C) = "add rA, rB, rC" ∧ Instr.text (.ssr .zero .dr1) = "ssr r0, DR1" := by decide

/-! ## The parameters ENCODING and INVALID_FLAG -/

/-- A state with another setting of the parameters. -/
def tuned (p : Params) (s : State) : State :=
  { s with params := p }

/-- R91 and R106: under another `ENCODING` the word 7 is `brk`, and the words of SPEC-ENC-1 spell nothing. -/
theorem test_table_encoding :
    let p : Params := { Params.default with encoding := .table [(toWord 7, .brk), (toWord 7, .nop)] }
    let s := tuned p (vec (-1) [] [(.cr2, 300)] [] [(303, 95), (312, 104)])
    look (s.writeWord s.ip (toWord 7)) [sys .cr3, sys .cr0] = some [2, 95] ∧
      after [.A, .A, .A, .B, .C, .zero] s [sys .cr3, sys .cr0] = some [2, 104] := by decide

/-- R336: where `pfc` meets `INVALID_FLAG`, vector 3 is entered and the flag is not written; where it does not, it runs. -/
theorem test_invalid_flag :
    let p : Params := { Params.default with invalidFlag := [⟨some (.pfX .c), [(1, .zero)], [(0, .pos)]⟩] }
    let s := tuned p (vec (-1) [] [(.cr2, 300)] [] [(309, 98)])
    after [.zero, .K, .zero, .zero, .zero, .zero] s [sys .cr3, sys .cr0, flg .c] = some [2, 98, 0] ∧
      after [.zero, .K, .zero, .zero, .zero, .A] s [sys .cr3, sys .cr0, flg .s] = some [0, 2, 1] ∧
      after [.zero, .K, .zero, .zero, .zero, .zero] (s.setFlag .s .pos) [sys .cr0, flg .c] = some [2, 1] := by decide

/-! ## One step: interrupts and I/O -/

/-- R341: with I = +1 the first pending interrupt is taken before the fetch and before the breakpoint; its signal is cleared. -/
theorem test_interrupt :
    look { vec (-1) [] [(.cr2, 300), (.dr1, -1)] [(.i, .pos), (.t, .pos)] [(318, 95)] with pendingInts := [6, 9] }
      [sys .cr3, sys .cr0, fun t => t.pendingInts.length] = some [-1, 95, 1] := by decide

/-- R38: with I = 0 a pending interrupt waits. -/
theorem test_interrupt_disabled :
    look { vec (-1) [] [] [] [] with pendingInts := [6] } [sys .cr3, sys .cr0, fun t => t.pendingInts.length] =
      some [0, 2, 1] := by decide

/-- Vector I2: int @%ABC, rA. -/
theorem test_int_I2 :
    let s : State := vec (-1) [] [] [(.b, .pos)] []
    let s : State := { s.writeWord s.ip (lit [.D, .E, .A, .A, .B, .C]) with ioAnswers := [toWord (-7)] }
    look s [reg .A] = some [-7] ∧ logged s = some [[786, 0, 1, -7]] := by decide

/-- Vector I3: inb @%000, rA. -/
theorem test_inb_I3 :
    let s : State := vec (-1) [] [] [(.b, .neg)] []
    let s : State := { s.writeWord s.ip (lit [.D, .F, .A, .zero, .zero, .zero]) with ioAnswers := [toWord 65535] }
    look s [reg .A] = some [65535] ∧ logged s = some [[0, 1, -1, 65535]] := by decide

/-- Vector I6: out rA, @%MMM. -/
theorem test_out_I6 :
    let s : State := vec (-1) [(.A, -193710244)] [] [(.b, .pos)] []
    logged (s.writeWord s.ip (lit [.D, .G, .A, .M, .M, .M])) = some [[9841, 0, 1, -193710244]] := by decide

/-- Vector I8: oub rA, @%00A. -/
theorem test_oub_I8 :
    let s : State := vec (-1) [(.A, -1)] [] [(.b, .neg)] []
    logged (s.writeWord s.ip (lit [.D, .H, .A, .zero, .zero, .A])) = some [[1, 1, -1, -1]] := by decide

/-! ## One step: the vectors -/

/-- Vector A3: add rA, rB, rC. -/
theorem test_add_A3 :
    after [.A, .A, .A, .B, .C, .zero] (vec (-1) [(.A, -193710244), (.B, -193710244)] [] [] [])
      [reg .C, flg .c, flg .s, sys .cr0] = some [1, -1, 1, 2] := by decide

/-- Vector A6: adc rA, rB, rC. -/
theorem test_adc_A6 :
    after [.A, .B, .A, .B, .C, .zero] (vec (-1) [(.A, 193710244), (.B, 193710244), (.C, 9)] [] [(.c, .pos)] [])
      [reg .C, flg .c, flg .s, sys .cr0] = some [0, 1, 0, 2] := by decide

/-- Vector A11: adi rA, rB, 364. -/
theorem test_adi_A11 :
    after [.C, .A, .A, .B, .M, .M] (vec (-1) [(.A, 193710244)] [] [] [])
      [reg .B, flg .c, flg .s, sys .cr0] = some [-193709881, 1, -1, 2] := by decide

/-- Vector A13: pad rA, 1. -/
theorem test_pad_A13 :
    after [.D, .A, .A, .zero, .zero, .A] (vec (-1) [(.A, 193710244)] [] [] [])
      [reg .A, flg .c, flg .s, sys .cr0] = some [-193710244, 1, -1, 2] := by decide

/-- Vector A16: sub rA, rB, rC. -/
theorem test_sub_A16 :
    after [.A, .C, .A, .B, .C, .zero] (vec (-1) [(.A, -193710244), (.B, 1)] [] [] [])
      [reg .C, flg .c, flg .s, sys .cr0] = some [193710244, -1, 1, 2] := by decide

/-- Vector A18: sbc rA, rB, rC. -/
theorem test_sbc_A18 :
    after [.A, .D, .A, .B, .C, .zero] (vec (-1) [(.A, 0), (.B, 0)] [] [(.c, .neg)] [])
      [reg .C, flg .c, flg .s, sys .cr0] = some [1, 0, 1, 2] := by decide

/-- Vector A21: sbi rA, rB, -364. -/
theorem test_sbi_A21 :
    after [.C, .B, .A, .B, .z, .z] (vec (-1) [(.A, 193710244)] [] [] [])
      [reg .B, flg .c, flg .s, sys .cr0] = some [-193709881, 1, -1, 2] := by decide

/-- Vector A22: psb rA, 1. -/
theorem test_psb_A22 :
    after [.D, .B, .A, .zero, .zero, .A] (vec (-1) [(.A, -193710244)] [] [] [])
      [reg .A, flg .c, flg .s, sys .cr0] = some [193710244, -1, 1, 2] := by decide

/-- Vector A27: mul rA, rB, rC. -/
theorem test_mul_A27 :
    after [.A, .E, .A, .B, .C, .zero] (vec (-1) [(.A, 193710244), (.B, -193710244)] [] [] [])
      [reg .C, reg .o, flg .s, sys .cr0] = some [96855122, -96855122, -1, 2] := by decide

/-- Vector A32: mli rA, rB, -364. -/
theorem test_mli_A32 :
    after [.C, .C, .A, .B, .z, .z] (vec (-1) [(.A, 193710244)] [] [] [])
      [reg .B, reg .o, flg .s, sys .cr0] = some [182, -182, -1, 2] := by decide

/-- Vector A33: pmu rA, 2. -/
theorem test_pmu_A33 :
    after [.D, .C, .A, .zero, .zero, .B] (vec (-1) [(.A, 193710244)] [] [] [])
      [reg .A, reg .o, flg .s, sys .cr0] = some [-1, 1, 1, 2] := by decide

/-- Vector A36: div rA, rB, rC. -/
theorem test_div_A36 :
    after [.A, .F, .A, .B, .C, .zero] (vec (-1) [(.A, -7), (.B, 2)] [] [] [])
      [reg .C, reg .u, flg .c, flg .s, sys .cr0] = some [-3, -1, 0, -1, 2] := by decide

/-- Vector A47: div rA, rB, rC. -/
theorem test_div_A47 :
    after [.A, .F, .A, .B, .C, .zero] (vec (-1) [(.A, 7), (.B, 0), (.C, 11), (.u, 22)] [(.cr2, 300)] [(.c, .pos), (.s, .neg)] [(300, -129), (301, 1)])
      [sys .cr3, sys .cr0] = some [2, 599] := by decide

/-- Vector A50: dvi rA, rB, -3. -/
theorem test_dvi_A50 :
    after [.C, .D, .A, .B, .zero, .p] (vec (-1) [(.A, 100)] [] [] [])
      [reg .B, reg .u, flg .c, flg .s, sys .cr0] = some [-33, 1, 0, -1, 2] := by decide

/-- Vector A53: pdv rA, -9841. -/
theorem test_pdv_A53 :
    after [.D, .D, .A, .z, .z, .z] (vec (-1) [(.A, 193710244)] [] [] [])
      [reg .A, flg .c, flg .s, sys .cr0] = some [-19684, 0, -1, 2] := by decide

/-- Vector L3: cmp rA, rB. -/
theorem test_cmp_L3 :
    after [.A, .G, .A, .B, .zero, .zero] (vec (-1) [(.A, 193710244), (.B, -1)] [] [] [])
      [flg .c, flg .s, sys .cr0] = some [1, -1, 2] := by decide

/-- Vector L4: cmp rA, rB. -/
theorem test_cmp_L4 :
    after [.A, .G, .A, .B, .zero, .zero] (vec (-1) [(.A, -193710244), (.B, 193710244)] [] [] [])
      [flg .c, flg .s, sys .cr0] = some [-1, 1, 2] := by decide

/-- Vector L6: cmi rA, -364. -/
theorem test_cmi_L6 :
    after [.C, .E, .A, .zero, .z, .z] (vec (-1) [(.A, -365)] [] [] [])
      [flg .c, flg .s, sys .cr0] = some [0, -1, 2] := by decide

/-- Vector L7: shl rA, 3. -/
theorem test_shl_L7 :
    after [.C, .F, .A, .zero, .zero, .C] (vec (-1) [(.A, 186535792)] [] [] [])
      [reg .A, flg .c, sys .cr0] = some [27, 1, 2] := by decide

/-- Vector L9: shl rA, 1. -/
theorem test_shl_L9 :
    after [.C, .F, .A, .zero, .zero, .A] (vec (-1) [(.A, -186535791)] [] [] [])
      [reg .A, flg .c, sys .cr0] = some [-172186884, -1, 2] := by decide

/-- Vector L14: shr rA, 1. -/
theorem test_shr_L14 :
    after [.C, .G, .A, .zero, .zero, .A] (vec (-1) [(.A, -14)] [] [] [])
      [reg .A, flg .c, sys .cr0] = some [-5, 1, 2] := by decide

/-- Vector L15: shr rA, 2. -/
theorem test_shr_L15 :
    after [.C, .G, .A, .zero, .zero, .B] (vec (-1) [(.A, 13)] [] [] [])
      [reg .A, flg .c, sys .cr0] = some [1, 1, 2] := by decide

/-- Vector L21: rol rA, 21. -/
theorem test_rol_L21 :
    after [.C, .H, .A, .zero, .A, .s] (vec (-1) [(.A, 186535792)] [] [] [])
      [reg .A, sys .cr0] = some [40, 2] := by decide

/-- Vector L22: ror rA, 3. -/
theorem test_ror_L22 :
    after [.C, .I, .A, .zero, .zero, .C] (vec (-1) [(.A, 186535792)] [] [] [])
      [reg .A, sys .cr0] = some [21257640, 2] := by decide

/-- Vector L25: rcl rA, 3. -/
theorem test_rcl_L25 :
    after [.C, .J, .A, .zero, .zero, .C] (vec (-1) [(.A, 186535792)] [] [(.c, .neg)] [])
      [reg .A, flg .c, sys .cr0] = some [22, 1, 2] := by decide

/-- Vector L27: rcr rA, 1. -/
theorem test_rcr_L27 :
    after [.C, .K, .A, .zero, .zero, .A] (vec (-1) [(.A, 186535792)] [] [(.c, .neg)] [])
      [reg .A, flg .c, sys .cr0] = some [-66961566, 1, 2] := by decide

/-- Vector L30: sti rA. -/
theorem test_sti_L30 :
    after [.A, .L, .A, .zero, .zero, .zero] (vec (-1) [(.A, 5)] [] [] [])
      [reg .A, sys .cr0] = some [-5, 2] := by decide

/-- Vector L33: pti rA. -/
theorem test_pti_L33 :
    after [.A, .M, .A, .zero, .zero, .zero] (vec (-1) [(.A, 5)] [] [] [])
      [reg .A, sys .cr0] = some [193710226, 2] := by decide

/-- Vector L36: nti rA. -/
theorem test_nti_L36 :
    after [.A, .n, .A, .zero, .zero, .zero] (vec (-1) [(.A, 5)] [] [] [])
      [reg .A, sys .cr0] = some [-193710236, 2] := by decide

/-- Vector L38: min rA, rB, rC. -/
theorem test_min_L38 :
    after [.A, .H, .A, .B, .C, .zero] (vec (-1) [(.A, 5), (.B, 1)] [] [] [])
      [reg .C, sys .cr0] = some [-4, 2] := by decide

/-- Vector L40: max rA, rB, rC. -/
theorem test_max_L40 :
    after [.A, .I, .A, .B, .C, .zero] (vec (-1) [(.A, 5), (.B, 1)] [] [] [])
      [reg .C, sys .cr0] = some [10, 2] := by decide

/-- Vector L42: teq rA, rB, rC. -/
theorem test_teq_L42 :
    after [.A, .J, .A, .B, .C, .zero] (vec (-1) [(.A, 5), (.B, 1)] [] [] [])
      [reg .C, sys .cr0] = some [193710218, 2] := by decide

/-- Vector L44: tem rA, rB, rC. -/
theorem test_tem_L44 :
    after [.A, .K, .A, .B, .C, .zero] (vec (-1) [(.A, 5), (.B, 1)] [] [] [])
      [reg .C, sys .cr0] = some [-1, 2] := by decide

/-- Vector M5: ldr 265720, rA. -/
theorem test_ldr_M5 :
    after [.E, .A, .M, .M, .M, .M] (vec (-1) [] [] [] [(265720, 1), (-265720, 2), (-265719, 3)])
      [reg .A, sys .cr0] = some [1595782, 2] := by decide

/-- Vector M3: ldr 100, rA. -/
theorem test_ldr_M3 :
    after [.E, .A, .zero, .zero, .D, .u] (vec (-1) [(.p, 50)] [] [(.a, .pos)] [(150, 9), (151, 8), (152, 7)])
      [reg .A, sys .cr0] = some [3725928, 2] := by decide

/-- Vector M7: ldl 200, rA. -/
theorem test_ldl_M7 :
    after [.F, .A, .zero, .zero, .G, .K] (vec (-1) [(.A, 1595782)] [] [] [(200, -1)])
      [reg .A, sys .cr0] = some [1595780, 2] := by decide

/-- Vector M8: ldm 200, rA. -/
theorem test_ldm_M8 :
    after [.G, .A, .zero, .zero, .G, .K] (vec (-1) [(.A, 1595782)] [] [] [(200, -1)])
      [reg .A, sys .cr0] = some [1593595, 2] := by decide

/-- Vector M9: ldh 200, rA. -/
theorem test_ldh_M9 :
    after [.H, .A, .zero, .zero, .G, .K] (vec (-1) [(.A, 1595782)] [] [] [(200, -1)])
      [reg .A, sys .cr0] = some [-529982, 2] := by decide

/-- Vector M12: ldi -5, rA. -/
theorem test_ldi_M12 :
    after [.C, .L, .A, .zero, .zero, .r] (vec (-1) [(.A, 193710244)] [] [] [])
      [reg .A, sys .cr0] = some [-5, 2] := by decide

/-- Vector M13: lil 141, rA. -/
theorem test_lil_M13 :
    after [.C, .M, .A, .zero, .E, .F] (vec (-1) [(.A, 193710244)] [] [] [])
      [reg .A, sys .cr0] = some [193710021, 2] := by decide

/-- Vector M14: lim 85, rA. -/
theorem test_lim_M14 :
    after [.C, .n, .A, .zero, .C, .D] (vec (-1) [(.A, 193710021)] [] [] [])
      [reg .A, sys .cr0] = some [193506630, 2] := by decide

/-- Vector M15: lih 29, rA. -/
theorem test_lih_M15 :
    after [.C, .o, .A, .zero, .A, .B] (vec (-1) [(.A, 193506630)] [] [] [])
      [reg .A, sys .cr0] = some [15473895, 2] := by decide

/-- Vector M17: lad -265720. -/
theorem test_lad_M17 :
    after [.M, .zero, .z, .z, .z, .z] (vec (-1) [] [] [] [])
      [reg .zero, sys .cr0] = some [-265720, 2] := by decide

/-- Vector M19: lda rA, rB. -/
theorem test_lda_M19 :
    after [.B, .A, .A, .B, .zero, .zero] (vec (-1) [(.A, 2657305)] [] [] [(100, 1), (101, 2), (102, 3)])
      [reg .B, sys .cr0] = some [1595782, 2] := by decide

/-- Vector M22: lal rA, rB. -/
theorem test_lal_M22 :
    after [.B, .B, .A, .B, .zero, .zero] (vec (-1) [(.A, 101), (.B, 193710244)] [] [] [(100, 1), (101, 2), (102, 3)])
      [reg .B, sys .cr0] = some [193709882, 2] := by decide

/-- Vector M23: lam rA, rB. -/
theorem test_lam_M23 :
    after [.B, .C, .A, .B, .zero, .zero] (vec (-1) [(.A, 101), (.B, 193710244)] [] [] [(100, 1), (101, 2), (102, 3)])
      [reg .B, sys .cr0] = some [193446346, 2] := by decide

/-- Vector M24: lah rA, rB. -/
theorem test_lah_M24 :
    after [.B, .D, .A, .B, .zero, .zero] (vec (-1) [(.A, 101), (.B, 193710244)] [] [] [(100, 1), (101, 2), (102, 3)])
      [reg .B, sys .cr0] = some [1328602, 2] := by decide

/-- Vector M27: ldn -6, rA. -/
theorem test_ldn_M27 :
    after [.C, .p, .A, .zero, .zero, .s] (vec (-1) [(.p, 100), (.n, 6)] [] [(.d, .neg)] [(100, 1), (101, 2), (102, 3)])
      [reg .A, reg .n, sys .cr0] = some [1595782, 5, 2] := by decide

/-- Vector M30: ldn 0, rn. -/
theorem test_ldn_M30 :
    after [.C, .p, .n, .zero, .zero, .zero] (vec (-1) [(.p, 100), (.n, 0)] [] [(.d, .pos)] [(100, 1), (101, 2), (102, 3)])
      [reg .n, sys .cr0] = some [1595783, 2] := by decide

/-- Vector M31: stn rA, -6. -/
theorem test_stn_M31 :
    after [.C, .q, .A, .zero, .zero, .s] (vec (-1) [(.A, 1595782), (.p, 300), (.n, 6)] [] [(.d, .neg)] [])
      [reg .n, hex (300), hex (301), hex (302), sys .cr0] = some [5, 1, 2, 3, 2] := by decide

/-- Vector M35: str rA, 100. -/
theorem test_str_M35 :
    after [.I, .A, .zero, .zero, .D, .u] (vec (-1) [(.A, 1595782), (.p, 1000)] [] [(.a, .pos)] [])
      [hex (1100), hex (1101), hex (1102), sys .cr0] = some [1, 2, 3, 2] := by decide

/-- Vector M37: stl rA, 100. -/
theorem test_stl_M37 :
    after [.J, .A, .zero, .zero, .D, .u] (vec (-1) [(.A, 1595782)] [] [] [])
      [hex (100), sys .cr0] = some [1, 2] := by decide

/-- Vector M38: stm rA, 100. -/
theorem test_stm_M38 :
    after [.K, .A, .zero, .zero, .D, .u] (vec (-1) [(.A, 1595782)] [] [] [])
      [hex (100), sys .cr0] = some [2, 2] := by decide

/-- Vector M39: sth rA, 100. -/
theorem test_sth_M39 :
    after [.L, .A, .zero, .zero, .D, .u] (vec (-1) [(.A, 1595782)] [] [] [])
      [hex (100), sys .cr0] = some [3, 2] := by decide

/-- Vector M41: sta rA, rB. -/
theorem test_sta_M41 :
    after [.B, .E, .A, .B, .zero, .zero] (vec (-1) [(.A, -193710244), (.B, 265719)] [] [] [])
      [hex (-265720), hex (265719), hex (265720), sys .cr0] = some [-364, -364, -364, 2] := by decide

/-- Vector M42: sal rA, rB. -/
theorem test_sal_M42 :
    after [.B, .F, .A, .B, .zero, .zero] (vec (-1) [(.A, 1595782), (.B, 100)] [] [] [])
      [hex (100), sys .cr0] = some [1, 2] := by decide

/-- Vector M43: sam rA, rB. -/
theorem test_sam_M43 :
    after [.B, .G, .A, .B, .zero, .zero] (vec (-1) [(.A, 1595782), (.B, 100)] [] [] [])
      [hex (100), sys .cr0] = some [2, 2] := by decide

/-- Vector M44: sah rA, rB. -/
theorem test_sah_M44 :
    after [.B, .H, .A, .B, .zero, .zero] (vec (-1) [(.A, 1595782), (.B, 100)] [] [] [])
      [hex (100), sys .cr0] = some [3, 2] := by decide

/-- Vector M45: mov rA, rB. -/
theorem test_mov_M45 :
    after [.B, .I, .A, .B, .zero, .zero] (vec (-1) [(.A, -77), (.B, 5)] [] [(.c, .pos), (.s, .pos)] [])
      [reg .B, sys .cr0] = some [-77, 2] := by decide

/-- Vector M48: xch rA, rB. -/
theorem test_xch_M48 :
    after [.B, .J, .A, .B, .zero, .zero] (vec (-1) [(.A, 1), (.B, 2)] [] [] [])
      [reg .A, reg .B, sys .cr0] = some [2, 1, 2] := by decide

/-- Vector M49: xch rA, rz. -/
theorem test_xch_M49 :
    after [.B, .J, .A, .z, .zero, .zero] (vec (-1) [(.A, 1)] [] [] [])
      [reg .A, sys .cr0] = some [0, 2] := by decide

/-- Vector M51: srz rA. -/
theorem test_srz_M51 :
    after [.B, .K, .A, .zero, .zero, .zero] (vec (-1) [(.A, 5)] [] [(.c, .pos), (.s, .pos)] [])
      [reg .A, sys .cr0] = some [0, 2] := by decide

/-- Vector M54: srp rz. -/
theorem test_srp_M54 :
    after [.B, .L, .z, .zero, .zero, .zero] (vec (-1) [] [] [] [])
      [sys .cr0] = some [2] := by decide

/-- Vector M53: srn rA. -/
theorem test_srn_M53 :
    after [.B, .M, .A, .zero, .zero, .zero] (vec (-1) [] [] [] [])
      [reg .A, sys .cr0] = some [-193710244, 2] := by decide

/-- Vector M57: psh rs. -/
theorem test_psh_M57 :
    after [.zero, .o, .s, .zero, .zero, .zero] (vec (-1) [] [] [] [])
      [reg .s, hex (-4), sys .cr0] = some [-7, -4, 2] := by decide

/-- Vector M60: pop rs. -/
theorem test_pop_M60 :
    after [.zero, .p, .s, .zero, .zero, .zero] (vec (-1) [(.s, -7)] [] [] [(-4, -229), (-3, 1)])
      [reg .s, sys .cr0] = some [500, 2] := by decide

/-- Vector M59: pop rB. -/
theorem test_pop_M59 :
    after [.zero, .p, .B, .zero, .zero, .zero] (vec (-1) [(.s, -7)] [] [] [(-4, 7)])
      [reg .B, reg .s, sys .cr0] = some [7, -4, 2] := by decide

/-- Vector B4: bra 265720. -/
theorem test_bra_B4 :
    after [.n, .zero, .M, .M, .M, .M] (vec (-1) [] [] [] [])
      [sys .cr0] = some [265718] := by decide

/-- Vector B6: brr rA. -/
theorem test_brr_B6 :
    after [.zero, .D, .A, .zero, .zero, .zero] (vec (-1) [(.A, 3720187)] [] [] [])
      [sys .cr0] = some [98] := by decide

/-- Vector B9: bri rA, -364. -/
theorem test_bri_B9 :
    after [.C, .r, .A, .zero, .z, .z] (vec (-1) [(.A, 0)] [] [] [])
      [sys .cr0] = some [-364] := by decide

/-- Vector B12: brs 26. -/
theorem test_brs_B12 :
    after [.C, .s, .zero, .zero, .A, .n] (vec (-1) [] [] [] [])
      [sys .cr0] = some [26] := by decide

/-- Vector B17: brl -6. -/
theorem test_brl_B17 :
    after [.o, .zero, .zero, .zero, .zero, .s] (vec (-265720) [] [] [] [])
      [sys .cr0] = some [265718] := by decide

/-- Vector B19: bzc 29. -/
theorem test_bzc_B19 :
    after [.r, .zero, .zero, .zero, .A, .B] (vec (-1) [] [] [(.c, .zero)] [])
      [sys .cr0] = some [29] := by decide

/-- Vector B22: bpa 30. -/
theorem test_bpa_B22 :
    after [.s, .E, .zero, .zero, .A, .C] (vec (-1) [] [] [(.a, .pos)] [])
      [sys .cr0] = some [32] := by decide

/-- Vector B25: bns -30. -/
theorem test_bns_B25 :
    after [.t, .A, .zero, .zero, .n, .p] (vec (-1) [] [] [(.s, .neg)] [])
      [sys .cr0] = some [-28] := by decide

/-- Vector B35: szc. -/
theorem test_szc_B35 :
    after [.zero, .G, .zero, .zero, .zero, .zero] (vec (265718) [] [] [(.c, .zero)] [])
      [sys .cr0] = some [-265717] := by decide

/-- Vector B31: spa. -/
theorem test_spa_B31 :
    after [.zero, .H, .zero, .zero, .zero, .E] (vec (-1) [] [] [(.a, .pos)] [])
      [sys .cr0] = some [5] := by decide

/-- Vector B33: sns. -/
theorem test_sns_B33 :
    after [.zero, .I, .zero, .zero, .zero, .A] (vec (-1) [] [] [(.s, .neg)] [])
      [sys .cr0] = some [5] := by decide

/-- Vector B36: tbs rA, rB, rC. -/
theorem test_tbs_B36 :
    after [.zero, .F, .A, .B, .C, .A] (vec (-1) [(.A, 30), (.B, 60), (.C, 90)] [] [(.s, .neg)] [])
      [sys .cr0] = some [32] := by decide

/-- Vector B38: tbs rA, rB, rC. -/
theorem test_tbs_B38 :
    after [.zero, .F, .A, .B, .C, .A] (vec (-1) [(.A, 30), (.B, 60), (.C, 90)] [] [(.s, .pos)] [])
      [sys .cr0] = some [92] := by decide

/-- Vector B41: cal 100. -/
theorem test_cal_B41 :
    after [.p, .zero, .zero, .zero, .D, .u] (vec (-1) [] [] [] [])
      [reg .s, hex (-4), sys .cr0] = some [-7, 2, 98] := by decide

/-- Vector B44: car -3. -/
theorem test_car_B44 :
    after [.q, .zero, .zero, .zero, .zero, .p] (vec (-1) [(.s, -7)] [] [] [])
      [reg .s, hex (-7), sys .cr0] = some [-10, 2, -1] := by decide

/-- Vector B46: caa rs. -/
theorem test_caa_B46 :
    after [.zero, .E, .s, .zero, .zero, .zero] (vec (-1) [(.s, 200)] [] [] [])
      [reg .s, hex (200), sys .cr0] = some [197, 2, 200] := by decide

/-- Vector B48: ret. -/
theorem test_ret_B48 :
    after [.zero, .B, .zero, .zero, .zero, .zero] (vec (-1) [(.s, -7)] [] [] [(-4, 100), (-2, 3)])
      [reg .s, sys .cr0] = some [-4, 98] := by decide

/-- Vector B49: zfc. -/
theorem test_zfc_B49 :
    after [.zero, .J, .zero, .zero, .zero, .zero] (vec (-1) [] [(.cr1, 193710244)] [] [])
      [flg .c, sys .cr0] = some [0, 2] := by decide

/-- Vector B52: pfs. -/
theorem test_pfs_B52 :
    after [.zero, .K, .zero, .zero, .zero, .A] (vec (-1) [] [] [] [])
      [flg .s, sys .cr0] = some [1, 2] := by decide

/-- Vector B55: nfb. -/
theorem test_nfb_B55 :
    after [.zero, .L, .zero, .zero, .zero, .F] (vec (-1) [] [] [] [])
      [flg .b, sys .cr0] = some [-1, 2] := by decide

/-- Vector C6: bin rA, rB. -/
theorem test_bin_C6 :
    after [.A, .o, .A, .B, .zero, .zero] (vec (-1) [(.A, 193710244)] [] [] [])
      [reg .B, sys .cr0] = some [191498346, 2] := by decide

/-- Vector C8: bin rA, rB. -/
theorem test_bin_C8 :
    after [.A, .o, .A, .B, .zero, .zero] (vec (-1) [(.A, -786)] [] [] [])
      [reg .B, sys .cr0] = some [193683918, 2] := by decide

/-- Vector C11: tri rA, rB. -/
theorem test_tri_C11 :
    after [.A, .p, .A, .B, .zero, .zero] (vec (-1) [(.A, 26328)] [] [] [])
      [reg .B, sys .cr0] = some [786, 2] := by decide

/-- Vector C15: fdr rA, rB. -/
theorem test_fdr_C15 :
    after [.A, .q, .A, .B, .zero, .zero] (vec (-1) [(.A, -5)] [] [] [])
      [reg .B, sys .cr0] = some [4, 2] := by decide

/-- Vector C20: rdr rA, rB. -/
theorem test_rdr_C20 :
    after [.A, .r, .A, .B, .zero, .zero] (vec (-1) [(.A, 786)] [] [] [])
      [reg .B, sys .cr0] = some [-27, 2] := by decide

/-- Vector S2: sys #-364. -/
theorem test_sys_S2 :
    after [.C, .t, .zero, .zero, .z, .z] (vec (-1) [(.v, 0)] [] [] [(-1092, 101), (-1090, 9)])
      [reg .r, sys .cr0] = some [2, 101] := by decide

/-- Vector S3: sys #0. -/
theorem test_sys_S3 :
    after [.C, .t, .zero, .zero, .zero, .zero] (vec (-1) [(.v, 4), (.r, 77)] [] [] [(4, 100)])
      [reg .r, sys .cr0] = some [2, 98] := by decide

/-- Vector S6: srt. -/
theorem test_srt_S6 :
    after [.zero, .C, .zero, .zero, .zero, .zero] (vec (-1) [(.r, 531541)] [] [] [])
      [sys .cr0] = some [98] := by decide

/-- Vector S7: nop. -/
theorem test_nop_S7 :
    after [.zero, .zero, .zero, .zero, .zero, .zero] (vec (-1) [] [] [] [])
      [sys .cr0] = some [2] := by decide

/-- Vector S11: (word %yABCDE). -/
theorem test_stx_S11 :
    after [.y, .A, .B, .C, .D, .E] (vec (-1) [] [(.cr2, 300)] [] [(312, 71), (313, 1)])
      [sys .cr3, sys .cr0] = some [2, 800] := by decide

/-- Vector S13: (word %00000A). -/
theorem test_undefined_word_S13 :
    after [.zero, .zero, .zero, .zero, .zero, .A] (vec (-1) [] [(.cr2, 300)] [] [(312, 71), (313, 1)])
      [sys .cr3, sys .cr0] = some [2, 800] := by decide

/-- Vector S18: lsr CR1, rA. -/
theorem test_lsr_S18 :
    after [.zero, .M, .A, .A, .zero, .zero] (vec (-1) [] [(.cr1, 193690561)] [] [])
      [reg .A, sys .cr0] = some [193690561, 2] := by decide

/-- Vector S21: lsr CR1, rA. -/
theorem test_lsr_S21 :
    after [.zero, .M, .A, .A, .zero, .zero] (vec (-1) [(.A, 5)] [(.cr2, 300)] [(.p, .pos)] [(306, 171), (307, 1)])
      [sys .cr3, sys .cr0] = some [2, 899] := by decide

/-- Vector S26: ssr rA, CR1. -/
theorem test_ssr_S26 :
    after [.zero, .n, .A, .A, .zero, .zero] (vec (-1) [(.A, 20440)] [] [] [])
      [sys .cr1, flg .c, flg .b, flg .p, sys .cr0] = some [20440, 1, 1, 1, 2] := by decide

/-- Vector S28: ssr rA, CR0. -/
theorem test_ssr_S28 :
    after [.zero, .n, .A, .zero, .zero, .zero] (vec (-1) [(.A, 100)] [] [(.p, .neg)] [])
      [sys .cr0] = some [98] := by decide

/-- Vector X1: add rA, rB, rC. -/
theorem test_breakpoint_X1 :
    after [.A, .A, .A, .B, .C, .zero] (vec (-1) [(.A, 2), (.B, 3)] [(.dr2, -1), (.cr2, 300)] [(.t, .pos)] [(303, -29), (304, 1)])
      [sys .cr3, sys .cr0] = some [-1, 698] := by decide

/-- Vector X6: und. -/
theorem test_und_X6 :
    after [.z, .zero, .zero, .zero, .zero, .zero] (vec (-1) [] [(.dr4, -1), (.cr2, 300)] [(.t, .pos)] [(303, -29), (304, 1), (312, 71), (313, 1)])
      [sys .cr3, sys .cr0] = some [-1, 698] := by decide

/-- Vector X7: brk. -/
theorem test_brk_X7 :
    after [.zero, .A, .zero, .zero, .zero, .zero] (vec (-1) [] [(.cr2, 2125765)] [] [(4, -100)])
      [sys .cr3, sys .cr0] = some [2, -100] := by decide

/-- Vector X8: und. -/
theorem test_und_X8 :
    after [.z, .zero, .zero, .zero, .zero, .zero] (vec (-1) [] [(.cr2, 265719)] [] [(-265710, 50)])
      [sys .cr3, sys .cr0] = some [2, 50] := by decide

/-- Vector S10: (word %x00000). -/
theorem test_ldx_S10 :
    after [.x, .zero, .zero, .zero, .zero, .zero] (vec (-1) [] [(.cr2, 300)] [] [(312, 71), (313, 1)])
      [sys .cr3, sys .cr0] = some [2, 800] := by decide

/-! ## States and operands that meet the statements' hypotheses -/

/-- A setting of `INVALID_FLAG` that every instruction meets when it leaves Carry at 0. -/
def flagged : Params :=
  { Params.default with invalidFlag := [⟨none, [], [(0, .zero)]⟩] }

theorem test_hyp_StepRunsTheDecodedInstruction :
    NoInterrupt State.reset ∧ NoBreakpoint State.reset ∧
      State.reset.params.encoding.decode (State.reset.readWord State.reset.ip) = .ok .nop ∧
      State.reset.advance = { State.reset with ip := Bt.plus State.reset.ip 3 } ∧ State.reset.params.invalidFlag = [] ∧
      State.reset.ip.val ≤ 265717 ∧ (vec 265717 [] [] [] []).ip.val = 265717 := by decide

/-- The second case of the IP: the top word of memory, from which it wraps. -/
theorem test_hyp_StepRunsTheDecodedInstruction_top :
    NoInterrupt (vec 265718 [] [] [] []) ∧ NoBreakpoint (vec 265718 [] [] [] []) ∧
      (vec 265718 [] [] [] []).params.encoding.decode ((vec 265718 [] [] [] []).readWord (vec 265718 [] [] [] []).ip) =
        .ok .nop ∧ ¬(vec 265718 [] [] [] []).ip.val ≤ 265717 := by decide

/-- An instruction that meets `INVALID_FLAG` and one that does not. -/
theorem test_hyp_StepRunsTheDecodedInstruction_flag :
    let s := tuned flagged State.reset
    exec .nop s = .next s ∧ (∃ c ∈ s.params.invalidFlag, MeetsFlag c .nop s s) ∧
      exec (.pfX .c) s = .next (s.setFlag .c .pos) ∧
        ∀ c ∈ s.params.invalidFlag, ¬ MeetsFlag c (.pfX .c) s (s.setFlag .c .pos) := by
  refine ⟨rfl, ⟨_, List.mem_singleton.2 rfl, ?_, ?_, ?_⟩, rfl, ?_⟩
  · intro j h; cases h
  · intro q h; cases h
  · intro q h; rw [List.mem_singleton.1 h]; rfl
  · intro c h m
    rw [List.mem_singleton.1 h] at m
    exact absurd (m.2.2 _ (List.mem_singleton.2 rfl)) (by decide)

theorem test_hyp_NopDoesNothing :
    (toWord 0).val = 0 ∧ NoInterrupt State.reset ∧ NoBreakpoint State.reset ∧
      State.reset.params.encoding.decode (State.reset.readWord State.reset.ip) = .ok .nop ∧
      ∀ c ∈ State.reset.params.invalidFlag, ¬ MeetsFlag c .nop State.reset State.reset :=
  ⟨by decide, by decide, by decide, by decide, fun _ h => by cases h⟩

theorem test_hyp_MemoryFormIsCanonical :
    Memory.wf [(Bt.ofInt 12 (-1), Bt.ofInt 6 5), (Bt.ofInt 12 265720, Bt.ofInt 6 (-364))] ∧
      ∀ a, Memory.read [(Bt.ofInt 12 (-1), Bt.ofInt 6 5)] a = Memory.read [(Bt.ofInt 12 (-1), Bt.ofInt 6 5)] a :=
  ⟨by decide, fun _ => rfl⟩

theorem test_hyp_ProductsSplitIntoTwoWords : Digit.A ≠ .o ∧ Digit.z ≠ .o := by decide

/-- A zero divisor and a non-zero one, from a register and from an immediate; the destinations of every clause. -/
theorem test_hyp_DivisionsWriteQuotientAndRemainder :
    (State.reset.get .A).val = 0 ∧ (State.reset.get .z).val = 0 ∧ ((vec (-1) [(.B, -1)] [] [] []).get .B).val ≠ 0 ∧
      (Bt.ofInt 6 0).val = 0 ∧ (Bt.ofInt 6 (-364)).val ≠ 0 ∧ (Bt.ofInt 9 0).val = 0 ∧ (Bt.ofInt 9 9841).val ≠ 0 ∧
      State.reset.params.divMod = .truncate ∧ State.reset.params.excSavedIp = .advanced ∧
      (tuned { Params.default with excSavedIp := .faulting } State.reset).params.excSavedIp = .faulting := by decide

/-- Each clause of the shift statement at the ends of its range of counts. -/
theorem test_hyp_ShiftsThroughCarry :
    (Bt.ofInt 6 0).val = ((0 : Nat) : Int) ∧ (Bt.ofInt 6 1).val = ((1 : Nat) : Int) ∧
      (Bt.ofInt 6 18).val = ((18 : Nat) : Int) ∧ (Bt.ofInt 6 19).val = ((19 : Nat) : Int) ∧
      (Bt.ofInt 6 364).val = ((364 : Nat) : Int) := by decide

theorem test_hyp_Rotations : (Bt.ofInt 6 0).val = ((0 : Nat) : Int) ∧ (Bt.ofInt 6 364).val = ((364 : Nat) : Int) := by
  decide

theorem test_hyp_Rotations_carry :
    (Bt.ofInt 6 18).val = ((18 : Nat) : Int) ∧ (Bt.ofInt 6 19).val = ((19 : Nat) : Int) := by decide

theorem test_hyp_UnspecifiedResultsStillComplete :
    (Bt.ofInt 6 (-1)).val < 0 ∧ (Bt.ofInt 6 (-364)).val < 0 ∧
      (∃ k < 18, ((vec (-1) [(.A, -1)] [] [] []).get .A).trit k = .neg) ∧
      Instr.mul .A .B .o = Instr.mul .A .B .o ∧ ((0 : Int) = (State.reset.get .A).val * (State.reset.get .B).val) := by
  decide

/-- The flag and switch values on which the address forms differ. -/
theorem test_hyp_IndexedAccesses :
    Digit.A ≠ .n ∧ (vec (-1) [] [] [(.a, .pos)] []).flag .a = .pos ∧ State.reset.flag .a ≠ .pos ∧
      (tuned { Params.default with ldnRpTwice := true } State.reset).params.ldnRpTwice = true := by decide

theorem test_hyp_PopMovesUpThenReads :
    Digit.A ≠ .s ∧ State.reset.params.popOrder = .before ∧
      (tuned { Params.default with popOrder := .after } State.reset).params.popOrder ≠ .before := by decide

theorem test_hyp_StackRoundTrips_push : State.reset.params.popOrder = .before ∧ Digit.A ≠ .s ∧ Digit.z ≠ .s := by decide

theorem test_hyp_ConditionalBranches :
    State.reset.flag .c = .zero ∧ (vec (-1) [] [] [(.c, .pos)] []).flag .c = .pos ∧
      (vec (-1) [] [] [(.p, .neg)] []).flag .p = .neg ∧ State.reset.flag .c ≠ .pos ∧ State.reset.flag .c ≠ .neg ∧
      (vec (-1) [] [] [(.c, .pos)] []).flag .c ≠ .zero := by decide

theorem test_hyp_ConditionalSkips :
    State.reset.flag .s = .zero ∧ (vec (-1) [] [] [(.s, .pos)] []).flag .s = .pos ∧
      (vec (-1) [] [] [(.i, .neg)] []).flag .i = .neg ∧ State.reset.flag .s ≠ .pos ∧ State.reset.flag .s ≠ .neg ∧
      (vec (-1) [] [] [(.s, .neg)] []).flag .s ≠ .zero := by decide

theorem test_hyp_ThreeWayBranch :
    State.reset.flag .d = .zero ∧ (vec (-1) [] [] [(.d, .pos)] []).flag .d = .pos ∧
      (vec (-1) [] [] [(.d, .neg)] []).flag .d = .neg := by decide

theorem test_hyp_StackRoundTrips_call :
    State.reset.params.popOrder = .before ∧ Aligned State.reset.ip ∧ ∃ a, Instr.caa .s = .caa a :=
  ⟨by decide, by decide, .s, rfl⟩

theorem test_hyp_BinConverts :
    0 ≤ (State.reset.get .A).val ∧ State.reset.params.binNegative = .twosComplement ∧
      ((vec (-1) [(.A, -193710244)] [] [] []).get .A).val < 0 := by decide

theorem test_hyp_TriConverts : ∀ i < 18, ((vec (-1) [(.A, 193710244)] [] [] []).get .A).trit i ≠ .neg := by decide

theorem test_hyp_TriConverts_inverse :
    Digit.B ≠ .z ∧ 0 ≤ ((vec (-1) [(.A, 262143)] [] [] []).get .A).val ∧
      ((vec (-1) [(.A, 262143)] [] [] []).get .A).val < 262144 ∧ ∀ i < 18, (State.reset.get .A).trit i ≠ .neg := by decide

theorem test_hyp_IoReads :
    ({ State.reset with ioAnswers := [toWord 5] } : State).ioAnswers = [toWord 5] ∧ State.reset.ioAnswers = [] := by decide

theorem test_hyp_SystemRegisterReads :
    (vec (-1) [] [] [(.p, .pos)] []).flag .p = .pos ∧ State.reset.flag .p ≠ .pos := by decide

/-- Protect = +1, Protect = 0 with CR0, and the two ways to be allowed. -/
theorem test_hyp_SystemRegisterWrites :
    (vec (-1) [] [] [(.p, .pos)] []).flag .p = .pos ∧ (SysReg.cr0 = .cr0 ∧ State.reset.flag .p = .zero) ∧
      ((vec (-1) [] [] [(.p, .neg)] []).flag .p ≠ .pos ∧
        (SysReg.cr0 = .cr0 → (vec (-1) [] [] [(.p, .neg)] []).flag .p = .neg)) ∧
      (State.reset.flag .p ≠ .pos ∧ (SysReg.dr4 = .cr0 → State.reset.flag .p = .neg)) := by decide

theorem test_hyp_SystemRegisterWrites_reads_back :
    State.reset.flag .p ≠ .pos ∧ ((vec (-1) [(.A, -193710244)] [] [] []).get .A).trit 9 ≠ .pos ∧ Digit.B ≠ .z := by decide

theorem test_hyp_InterruptIsTakenFirst :
    let s : State := { vec (-1) [] [] [(.i, .pos)] [] with pendingInts := [6, 9] }
    s.flag .i = .pos ∧ s.pendingInts = [6, 9] := by decide

/-- Each of the four debug registers. -/
theorem test_hyp_BreakpointStopsBeforeTheFetch :
    ([.dr1, .dr2, .dr3, .dr4] : List SysReg).all (fun k =>
      let s := vec (-1) [] [(.dr1, 1), (.dr2, 1), (.dr3, 1), (.dr4, 1), (k, -1)] [(.t, .pos)] []
      decide (NoInterrupt s ∧ s.flag .t = .pos ∧
        (s.ip.val = s.dr1.val ∨ s.ip.val = s.dr2.val ∨ s.ip.val = s.dr3.val ∨ s.ip.val = s.dr4.val))) = true := by decide

theorem test_hyp_UndefinedWordRaises :
    let s := vec (-1) [] [] [] [(1, -364)]
    let s := s.writeWord s.ip (lit [.v, .zero, .zero, .zero, .zero, .zero])
    NoInterrupt s ∧ NoBreakpoint s ∧ s.params.encoding.decode (s.readWord s.ip) = .error .unassignedMajor ∧
      (tuned { Params.default with encoding := .table [] } s).params.encoding.decode (s.readWord s.ip) = .error .notInEncoding := by
  decide

theorem test_hyp_StoredInstructionIsFetched :
    let s := vec (-1) [(.A, 531441)] [] [] []
    s.eaAbs (Bt.ofInt 12 (-1)) = s.ip ∧ NoInterrupt s ∧ NoBreakpoint s ∧ s.params.encoding.decode (s.get .A) = .ok .brk ∧
      s.params.invalidFlag = [] := by decide

/-- Numbers and identifiers as operands, at the ends of their ranges; no hexad, a byte of 0 and of 255, no words. -/
theorem test_hyp_AssembledWordsStandWhereTheyAreEmitted :
    [AsmOperand.name "X", .lit (-364), .lit 364].map asm5.value =
        [Bt.ofInt 6 5, Bt.ofInt 6 (-364), Bt.ofInt 6 364].map (fun h => some h.val) ∧
      [AsmOperand.lit (-193710244), .name "X"].map asm5.value =
        [toWord (-193710244), toWord 5].map (fun w => some w.val) ∧
      asm5.value (.lit 0) = some ((0 : Nat) : Int) ∧ asm5.value (.lit 255) = some ((255 : Nat) : Int) ∧
      (Bt.ofInt 6 0).val = 0 ∧ asm5.encoding.encode .brk = some (lit [.zero, .A, .zero, .zero, .zero, .zero]) ∧
      asm5.encoding = .specEnc1 ∧ asm5.value (.lit (-265720)) = some (Bt.ofInt 12 (-265720)).val ∧ "Y" ≠ "X" ∧
      asm5.value (.name "X") = some (Bt.ofInt 6 5).val ∧ asm5.value (.name "X") = some (Bt.ofInt 9 5).val ∧
      asm5.value (.name "X") = some (Bt.ofInt 12 5).val ∧ asm5.lookup "P" = none ∧ asm5.lookup "Q" = none ∧ "Q" ≠ "P" := by
  decide

/-- An instruction that is none of `ldx`, `stx` and `und`. -/
theorem test_hyp_AssembledWordsStandWhereTheyAreEmitted_instr :
    (asm5.instr .brk).isSome ∧ ∀ r, Instr.brk ≠ .ldx r ∧ Instr.brk ≠ .stx r ∧ Instr.brk ≠ .und r := by
  refine ⟨by decide, fun r => ⟨?_, ?_, ?_⟩⟩ <;> intro h <;> cases h

/-- A list of words that the assembler lays down, and the second of them. -/
theorem test_hyp_AssembledWordsStandWhereTheyAreEmitted_words :
    (asm5.directive (.dw [.lit 1, .name "X"])).isSome ∧ [toWord 1, toWord 5].length ≤ 177147 ∧
      [toWord 1, toWord 5][1]? = some (toWord 5) := by decide

/-- An integer below the range of addresses and one inside it, and the source's example. -/
theorem test_hyp_AlignReplacesTheLowestTrit :
    WrapOf 12 (-265721) (Bt.ofInt 12 265720) ∧ WrapOf 12 21226 (Bt.ofInt 12 21226) ∧
      (Bt.ofInt 12 21226).val = numeral [.A, .B, .C, .D] ∧ (Bt.ofInt 12 21224).val = numeral [.A, .B, .C, .B] :=
  ⟨⟨-1, by decide⟩, ⟨0, by decide⟩, by decide, by decide⟩

/-- The trits of a number, and a number and its negative, at the end of the range. -/
theorem test_hyp_NumbersAreTheirTrits :
    (Bt.ofInt 2 4).val = ∑ i ∈ Finset.range 2, (Trit.pos).toInt * 3 ^ i ∧ (Bt.ofInt 2 (-4)).val = -(Bt.ofInt 2 4).val := by
  decide

theorem test_hyp_IpAlwaysStartsAWord :
    Aligned State.reset.ip ∧ step State.reset = .next State.reset.advance ∧ (Bt.ofInt 12 (-1)).val = -1 ∧
      Aligned (Bt.ofInt 12 265718) := ⟨by decide, rfl, by decide, by decide⟩

theorem test_hyp_InstructionsSpellTheirTableWords :
    ((word6 .zero .n .A .C .zero .zero, .ssr .A .cr3) : Word × Instr) ∈
      ([(word6 .zero .n .A .C .zero .zero, .ssr .A .cr3)] : List (Word × Instr)) := by decide

theorem test_hyp_EncodeOfDecode : decode (lit [.zero, .F, .A, .n, .z, .I]) = .ok (.tbX .A .n .z .p) := by decide

theorem test_hyp_EveryStepKeepsTheInvariant :
    ∃ s t : State, s.Inv ∧ step s = .next t :=
  ⟨{ vec (-1) [] [] [(.i, .pos)] [(3, 7)] with pendingInts := [5] }, _, by decide, rfl⟩

theorem test_hyp_InstructionsWriteOnlyTheirRegisters :
    exec (.srn .A) State.reset = .next (State.reset.put .A (-193710244)) := rfl

theorem test_hyp_InstructionsWriteOnlyTheirFlags :
    exec (.pfX .d) State.reset = .next (State.reset.setFlag .d .pos) ∧ Instr.canRaise (.pfX .d) = false ∧
      ∀ a, Instr.pfX .d ≠ .ssr a .cr1 :=
  ⟨rfl, rfl, fun _ h => by cases h⟩

theorem test_hyp_InstructionsStoreOnlyWhereTheySay :
    exec (.psh .A) State.reset = .next (State.reset.push (State.reset.get .A)) ∧
      Bt.ofInt 12 0 ∉ Instr.storeAddrs (.psh .A) State.reset :=
  ⟨rfl, by decide⟩

theorem test_hyp_InstructionsMoveIpOnlyWhereTheySay :
    exec .nop State.reset = .next State.reset ∧ Instr.assignsIp .nop = false ∧ Instr.canRaise .nop = false :=
  ⟨rfl, rfl, rfl⟩

end Sys2Proof.Tests
end

section
/-!
PROOFS for 00_scope.md: a number and its trits (R3), and aligning an address (R8).
-/

namespace Sys2Proof

/-! ## A number is the sum of its trits (R3) -/

/-- The recursive sum of the model is the sum the spec writes. -/
theorem tritSum_eq_sum (n : Nat) (f : Nat → Trit) :
    tritSum n f = ∑ i ∈ Finset.range n, (f i).toInt * 3 ^ i := by
  induction n with
  | zero => rfl
  | succ n ih => rw [tritSum, Finset.sum_range_succ, ih, pow3_eq_pow]

theorem tritSum_trit {n : Nat} (w : Bt n) : tritSum n w.trit = w.val := by
  rw [← ofTrits_val, ofTrits_trit]

/-- A number has one representation: trits that sum to it are its own. -/
theorem Bt.trit_eq_of_val_eq_tritSum {n i : Nat} {w : Bt n} {f : Nat → Trit} (h : w.val = tritSum n f) (hi : i < n) :
    w.trit i = f i := by
  have hw : w = ofTrits n f := Bt.ext (by rw [h, ofTrits_val])
  rw [hw, trit_ofTrits f hi]

theorem half_eq_div (n : Nat) : half n = (3 ^ n - 1) / 2 := by
  have h := pow3_eq_half n
  rw [← pow3_eq_pow]; omega

/-- The integers of `n` trits are those of the interval of R3. -/
theorem Bt.exists_val_iff {n : Nat} {v : Int} : (∃ w : Bt n, w.val = v) ↔ -half n ≤ v ∧ v ≤ half n := by
  constructor
  · rintro ⟨w, rfl⟩
    exact ⟨w.lo, w.hi⟩
  · rintro ⟨lo, hi⟩
    exact ⟨⟨v, lo, hi⟩, rfl⟩

theorem Trit.exists_toInt_iff {v : Int} : (∃ t : Trit, t.toInt = v) ↔ v = -1 ∨ v = 0 ∨ v = 1 := by
  constructor
  · rintro ⟨t, rfl⟩
    cases t <;> simp [Trit.toInt]
  · rintro (rfl | rfl | rfl)
    · exact ⟨.neg, rfl⟩
    · exact ⟨.zero, rfl⟩
    · exact ⟨.pos, rfl⟩

/-! ## The negative of a number (R3) -/

/-- The range of `n` trits is symmetric, so both the low trits and the rest of a value change sign with it. -/
theorem bt_neg_and_shiftOut_neg (n : Nat) (v : Int) : bt n (-v) = -bt n v ∧ shiftOut (-v) n = -shiftOut v n := by
  have lo := neg_half_le_bt n v
  have hi := bt_le_half n v
  have e := eq_bt_add n v
  exact bt_unique (by omega) (by omega) (by rw [mul_neg]; omega)

@[simp] theorem bt_neg (n : Nat) (v : Int) : bt n (-v) = -bt n v :=
  (bt_neg_and_shiftOut_neg n v).1

@[simp] theorem shiftOut_neg (v : Int) (n : Nat) : shiftOut (-v) n = -shiftOut v n :=
  (bt_neg_and_shiftOut_neg n v).2

/-- Negating a value negates every trit. -/
theorem toInt_tritAt_neg (v : Int) (i : Nat) : (tritAt (-v) i).toInt = -(tritAt v i).toInt := by
  simp [tritAt]

/-! ## Reducing and aligning an address (R5, R8) -/

/-- The words of R5 determine the wrapped value. -/
theorem bt_eq_of_wrapOf {n : Nat} {v : Int} {w : Bt n} (h : Machine.WrapOf n v w) : bt n v = w.val := by
  obtain ⟨k, hk⟩ := h
  exact (bt_unique w.lo w.hi (by rw [pow3_eq_pow]; exact hk)).1

/-- The trits from position `k` upward depend only on what stands above the low `k` trits. -/
theorem tritAt_eq_of_shiftOut_eq {u v : Int} {k i : Nat} (h : shiftOut u k = shiftOut v k) (hi : k ≤ i) :
    tritAt u i = tritAt v i := by
  obtain ⟨j, rfl⟩ := Nat.exists_eq_add_of_le hi
  rw [tritAt, tritAt, ← shiftOut_shiftOut, ← shiftOut_shiftOut, h]

/-- A value is its lowest trit plus 3 times the rest. -/
theorem eq_lowest_trit_add (v : Int) : v = (tritAt v 0).toInt + 3 * shiftOut v 1 := by
  simpa [tritAt] using eq_bt_add 1 v

/-- An aligned address needs no wrapping: -1 in the place of the lowest trit stays inside 12 trits. -/
theorem align_val (v : Int) : (align v).val = bt 12 v - (tritAt (bt 12 v) 0).toInt - 1 := by
  have lo := neg_half_le_bt 12 v
  have hi := bt_le_half 12 v
  have hsplit := eq_lowest_trit_add (bt 12 v)
  have htrit := (tritAt (bt 12 v) 0).toInt_range
  rw [half_twelve] at lo hi
  rw [align, Bt.ofInt_val]
  apply bt_of_range <;> rw [half_twelve] <;> omega

/-- Aligning keeps everything above the lowest trit. -/
theorem shiftOut_align_val_one (v : Int) : shiftOut (align v).val 1 = shiftOut (bt 12 v) 1 := by
  have hsplit := eq_lowest_trit_add (bt 12 v)
  have hval := align_val v
  exact (bt_unique (n := 1) (x := -1) (by simp) (by simp) (by rw [pow3_one]; omega)).2

/-- Aligning keeps the eleven upper trits of the address. -/
theorem trit_align_of_pos (v : Int) {i : Nat} (hi : 1 ≤ i) : (align v).trit i = tritAt (bt 12 v) i :=
  tritAt_eq_of_shiftOut_eq (shiftOut_align_val_one v) hi

end Sys2Proof

namespace Sys2Proof.Machine

/-- `bra` sets IP to its aligned address (R243). -/
theorem exec_bra (x : Addr) (s : State) : exec (.bra x) s = .next (s.jump x.val) := rfl

/-- Carry is trit 0 of `CR1` (R30). -/
theorem trit_zero_word_eq_carry (s : State) : s.cr1.word.trit 0 = s.flag .c := by
  rw [FlagReg.word, trit_ofTrits _ (by decide)]
  rfl

/-- Settles O38: the sum of R3 is the model's `tritSum`, which its trits build up and which determines them. -/
theorem numbersAreTheirTrits : Obligations.NumbersAreTheirTrits := by
  unfold Obligations.NumbersAreTheirTrits
  simp only [← tritSum_eq_sum, ← half_eq_div]
  refine ⟨fun n => ⟨?sums, ?value, ?unique, ?range, ?negative⟩, ?trits, ?hexads, trit_zero_word_eq_carry⟩
  case sums => exact fun f => ⟨ofTrits n f, ofTrits_val n f⟩
  case value => exact fun w => (tritSum_trit w).symm
  case unique => exact fun w f h i hi => Bt.trit_eq_of_val_eq_tritSum h hi
  case range => exact fun v => Bt.exists_val_iff
  case negative =>
    intro w x h i _
    rw [Bt.trit, h]
    exact toInt_tritAt_neg w.val i
  case trits => exact fun v => Trit.exists_toInt_iff
  case hexads => exact fun v => half_six ▸ Bt.exists_val_iff

/-- Settles O15: an address is its lowest trit plus 3 times the rest, and aligning keeps the rest. -/
theorem alignReplacesTheLowestTrit : Obligations.AlignReplacesTheLowestTrit := by
  unfold Obligations.AlignReplacesTheLowestTrit
  constructor
  · intro v a h
    have hb := bt_eq_of_wrapOf h
    refine ⟨?value, (align_spec v).1, fun i hi _ => ?upper⟩
    case value => rw [align_val, hb, Bt.trit]
    case upper => rw [trit_align_of_pos v hi, hb, Bt.trit]
  · intro s x y hx hy
    refine ⟨_, exec_bra x s, Bt.ext ?_⟩
    rw [State.jump_ip, hx, hy]
    decide

end Sys2Proof.Machine
end

section
/-!
PROOFS for 10_state.md: where a word starts (R26), the memory's canonical form (R46), everything an instruction can do, and
from it what each instruction leaves alone (R21 to R45) and what every step keeps (R27).
-/

namespace Sys2Proof

theorem Trit.ofInt_eq_neg_iff {v : Int} : Trit.ofInt v = .neg ↔ v % 3 = 2 := by
  unfold Trit.ofInt
  split
  · exact iff_of_false (by decide) (by omega)
  · split
    · exact iff_of_false (by decide) (by omega)
    · exact iff_of_true rfl (by omega)

end Sys2Proof

namespace Sys2Proof.Machine

/-! ## Where a word starts (R26) -/

/-- Wrapping to 12 trits keeps the lowest trit. -/
theorem trit_zero_plus (a : Addr) (k : Int) : (Bt.plus a k).trit 0 = Trit.ofInt (a.val + k) := by
  apply Trit.toInt_inj
  rw [Bt.trit, tritAt, shiftOut_zero, Trit.toInt_ofInt, Trit.toInt_ofInt, Bt.plus, Bt.ofInt_val, bt_bt_of_le (by decide)]

theorem aligned_iff_emod {a : Addr} : Aligned a ↔ a.val % 3 = 2 := by
  rw [Aligned, Bt.trit, tritAt, shiftOut_zero, Trit.ofInt_eq_neg_iff]

theorem aligned_iff_exists {a : Addr} :
    Aligned a ↔ ∃ k : Int, -88573 ≤ k ∧ k ≤ 88573 ∧ a.val = 3 * k - 1 := by
  have lo := a.lo
  have hi := a.hi
  rw [half_twelve] at lo hi
  rw [aligned_iff_emod]
  constructor
  · intro h
    exact ⟨(a.val + 1) / 3, by omega, by omega, by omega⟩
  · rintro ⟨k, -, -, hk⟩
    omega

theorem aligned_align (v : Int) : Aligned (align v) :=
  (align_spec v).1

/-- The following word starts 3 higher, across the top of memory too (R27, R28). -/
theorem aligned_plus_three {a : Addr} (h : Aligned a) : Aligned (Bt.plus a 3) := by
  rw [aligned_iff_emod] at h
  rw [Aligned, trit_zero_plus, Trit.ofInt_eq_neg_iff]
  omega

/-- The middle and the high hexad of a word have lowest trits 0 and +1. -/
theorem trit_zero_of_aligned {a : Addr} (h : Aligned a) :
    (Bt.plus a 1).trit 0 = .zero ∧ (Bt.plus a 2).trit 0 = .pos := by
  rw [aligned_iff_emod] at h
  rw [trit_zero_plus, trit_zero_plus, Trit.ofInt, Trit.ofInt, if_pos (by omega), if_neg (by omega), if_pos (by omega)]
  exact ⟨rfl, rfl⟩

/-! ## The canonical form of the memory (R46) -/

/-- The entries of a memory in canonical form are the addresses that do not read as unlisted, with what they read as. -/
theorem Memory.mem_iff_read {m : Memory} (hm : m.wf) (a : Addr) (h : Hexad) :
    (a, h) ∈ m ↔ m.read a = h ∧ h ≠ Memory.unlisted a := by
  induction m with
  | nil => simp [Memory.read, eq_comm]
  | cons c m ih =>
    obtain ⟨k, x⟩ := c
    obtain ⟨hsort, hlisted⟩ := hm
    rw [List.pairwise_cons] at hsort
    obtain ⟨hbelow, hsort⟩ := hsort
    have ih := ih ⟨hsort, fun c hc => hlisted c (by simp [hc])⟩
    rw [Memory.read, List.mem_cons]
    by_cases hk : k = a
    · subst hk
      have hx : x ≠ Memory.unlisted k := hlisted (k, x) (by simp)
      have hnot : (k, h) ∉ m := fun hmem => lt_irrefl _ (hbelow (k, h) hmem)
      rw [if_pos rfl]
      constructor
      · rintro (heq | hmem)
        · cases heq
          exact ⟨rfl, hx⟩
        · exact absurd hmem hnot
      · rintro ⟨rfl, -⟩
        exact .inl rfl
    · rw [if_neg hk, ← ih]
      simp [Ne.symm hk]

theorem Memory.nodup_of_wf {m : Memory} (hm : m.wf) : m.Nodup :=
  hm.1.imp fun hlt heq => by rw [heq] at hlt; exact lt_irrefl _ hlt

/-- The canonical form is determined by what the memory reads as. -/
theorem Memory.eq_of_read_eq {m m' : Memory} (hm : m.wf) (hm' : m'.wf) (h : ∀ a, m.read a = m'.read a) : m = m' := by
  have hperm : m.Perm m' := by
    rw [List.perm_ext_iff_of_nodup (Memory.nodup_of_wf hm) (Memory.nodup_of_wf hm')]
    rintro ⟨a, x⟩
    rw [Memory.mem_iff_read hm, Memory.mem_iff_read hm', h a]
  exact hperm.eq_of_pairwise (fun _ _ _ _ hab hba => absurd hab (lt_asymm hba)) hm.1 hm'.1

/-- Settles O7: in canonical form the entries are what the addresses read as, in one possible order. -/
theorem memoryFormIsCanonical : Obligations.MemoryFormIsCanonical := by
  unfold Obligations.MemoryFormIsCanonical
  exact ⟨fun _ _ hm hm' h => Memory.eq_of_read_eq hm hm' h, fun _ a h hm => Memory.write_wf a h hm⟩

/-- Settles O2: -265720 starts a word, and the memory and the pending interrupts are empty. -/
theorem resetMeetsTheInvariant : Obligations.ResetMeetsTheInvariant := by
  unfold Obligations.ResetMeetsTheInvariant
  refine ⟨?ip, ⟨List.Pairwise.nil, ?listed⟩, ?pending⟩
  case ip => decide
  case listed => exact fun _ h => absurd h List.not_mem_nil
  case pending => exact fun _ h => absurd h List.not_mem_nil

/-! ## What a state operation writes

`WritesOnly` is built up along an instruction's own writes: one rule for each operation of the state, proved once. -/

/-- From `s` to `t` only the listed registers, flags and hexads of memory may have been written, the listed events have been
logged, and the memory has stayed canonical; IP, the other system registers, the pending interrupts and the parameters are as
before. -/
structure WritesOnly (regs : List Reg) (flags : List Flag) (addrs : List Addr) (events : List IoEvent) (s t : State) :
    Prop where
  regs : OnlyRegs s t regs
  flags : OnlyFlags s t flags
  sys : SameSys s t
  ip : t.ip = s.ip
  mem : ∀ x, x ∉ addrs → t.readHexad x = s.readHexad x
  memWf : s.mem.wf → t.mem.wf
  ioLog : t.ioLog = s.ioLog ++ events
  pendingInts : t.pendingInts = s.pendingInts
  params : t.params = s.params

namespace WritesOnly

variable {regs : List Reg} {flags : List Flag} {addrs : List Addr} {events : List IoEvent} {s t : State}

theorem refl : WritesOnly regs flags addrs [] s s where
  regs _ _ := rfl
  flags _ _ := rfl
  sys := ⟨rfl, rfl, rfl, rfl, rfl, rfl, rfl⟩
  ip := rfl
  mem _ _ := rfl
  memWf := id
  ioLog := (List.append_nil _).symm
  pendingInts := rfl
  params := rfl

theorem set (h : WritesOnly regs flags addrs events s t) {dst : Reg} (hd : dst ∈ regs) (v : Word) :
    WritesOnly regs flags addrs events s (t.set dst v) :=
  { h with
    regs := fun rg hrg => by
      have hne : rg ≠ dst := fun heq => hrg (heq ▸ hd)
      rw [State.set_get, if_neg (fun hand => hne hand.1), h.regs rg hrg] }

theorem setFlag (h : WritesOnly regs flags addrs events s t) {f : Flag} (hf : f ∈ flags) (v : Trit) :
    WritesOnly regs flags addrs events s (t.setFlag f v) :=
  { h with
    flags := fun k hk => by
      rw [State.setFlag_cr1, FlagReg.tritAt_set, if_neg (hk f hf), h.flags k hk] }

/-- The flags of R130, R141 and R145. -/
theorem setCarrySign (h : WritesOnly regs [.c, .s] addrs events s t) (v w : Trit) :
    WritesOnly regs [.c, .s] addrs events s ((t.setFlag .c v).setFlag .s w) :=
  (h.setFlag (by simp) v).setFlag (by simp) w

theorem drew (h : WritesOnly regs flags addrs events s t) : WritesOnly regs flags addrs events s t.drew :=
  { h with }

theorem writeHexad (h : WritesOnly regs flags addrs events s t) {a : Addr} (ha : a ∈ addrs) (x : Hexad) :
    WritesOnly regs flags addrs events s (t.writeHexad a x) :=
  { h with
    mem := fun y hy => by
      have hne : y ≠ a := fun heq => hy (heq ▸ ha)
      rw [State.writeHexad_readHexad, if_neg hne, h.mem y hy]
    memWf := fun hs => Memory.write_wf a x (h.memWf hs) }

theorem writeWord {a : Addr} (h : WritesOnly regs flags (wordAddrs a) events s t) (v : Word) :
    WritesOnly regs flags (wordAddrs a) events s (t.writeWord a v) :=
  ((h.writeHexad (by simp) _).writeHexad (by simp) _).writeHexad (by simp) _

theorem logIo (h : WritesOnly regs flags addrs events s t) (e : IoEvent) :
    WritesOnly regs flags addrs (events ++ [e]) s (t.logIo e) :=
  { h with ioLog := by rw [State.logIo_ioLog, h.ioLog, List.append_assoc] }

theorem ioRead (a : Nonad) (k : IoKind) :
    WritesOnly regs flags addrs [.read a k (s.flag .b) (s.ioAnswer a k)] s (s.ioRead a k) := by
  rw [State.ioRead_eq]
  exact { refl (s := s) with ioLog := rfl }

theorem push (v : Word) : WritesOnly [.s] flags (wordAddrs s.pushAddr) [] s (s.push v) :=
  (refl.writeWord v).set (by simp) _

end WritesOnly

/-! ## What each shared operation writes -/

section
variable {flags : List Flag} {addrs : List Addr} {s t : State}

/-- One register written: most loads, moves, tritwise operations and conversions. -/
theorem set_writesOnly {dst : Reg} {v : Word} (h : done (s.set dst v) = .next t) : WritesOnly [dst] flags addrs [] s t := by
  cases h
  exact WritesOnly.refl.set (by simp) v

theorem addTo_writesOnly {dst : Reg} {e : Int} (h : addTo dst e s = .next t) : WritesOnly [dst] [.c, .s] addrs [] s t := by
  rw [addTo_spec h]
  exact (WritesOnly.refl.set (by simp) _).setCarrySign _ _

theorem arithFlags_writesOnly {e : Int} (h : done (s.arithFlags e) = .next t) : WritesOnly [] [.c, .s] addrs [] s t := by
  cases h
  exact WritesOnly.refl.setCarrySign _ _

theorem writeProduct_writesOnly (dst : Reg) (p : Int) : WritesOnly [dst, .o] flags addrs [] s (writeProduct dst p s) := by
  unfold writeProduct
  split
  · exact WritesOnly.refl.set (by simp) _
  · exact (WritesOnly.refl.set (by simp) _).set (by simp) _

theorem multiplyTo_writesOnly {dst : Reg} {p : Int} (h : multiplyTo dst p s = .next t) :
    WritesOnly [dst, .o] [.c, .s] addrs [] s t := by
  rw [multiplyTo_spec h]
  exact ((writeProduct_writesOnly dst p).setCarrySign _ _).drew

/-- A divide raises `#D0` or writes the quotient, the remainder and the flags (R144). -/
theorem divideTo_writesOnly {a : Reg} {d : Int} {dst : Reg} (h : divideTo a d dst s = .next t) :
    t = s.raised .divideByZero ∨ WritesOnly [dst, .u] [.c, .s] addrs [] s t := by
  obtain ⟨-, ht⟩ | ⟨-, rfl⟩ := divideTo_spec h
  · exact .inl ht
  · exact .inr (((WritesOnly.refl.set (by simp) _).set (by simp) _).setCarrySign _ _)

theorem shiftCarry_writesOnly {f : Nat → Word × Trit → Word × Trit} {a : Reg} {k : Hexad}
    (h : shiftCarry f a k s = .next t) : WritesOnly [a] [.c] addrs [] s t := by
  obtain ⟨-, rfl⟩ | ⟨-, rfl⟩ := shiftCarry_spec h
  · exact ((WritesOnly.refl.set (by simp) _).setFlag (by simp) _).drew
  · exact (WritesOnly.refl.set (by simp) _).setFlag (by simp) _

theorem rotateOnly_writesOnly {f : Word → Nat → Word} {a : Reg} {k : Hexad} (h : rotateOnly f a k s = .next t) :
    WritesOnly [a] flags addrs [] s t := by
  obtain ⟨-, rfl⟩ | ⟨-, rfl⟩ := rotateOnly_spec h
  · exact (WritesOnly.refl.set (by simp) _).drew
  · exact WritesOnly.refl.set (by simp) _

theorem execTri_writesOnly {a b : Reg} (h : execTri a b s = .next t) : WritesOnly [b] flags addrs [] s t := by
  unfold execTri at h
  split at h
  · exact set_writesOnly h
  · cases h
    exact (WritesOnly.refl.set (by simp) _).drew

theorem setFlag_writesOnly {f : Flag} {v : Trit} (h : done (s.setFlag f v) = .next t) : WritesOnly [] [f] addrs [] s t := by
  cases h
  exact WritesOnly.refl.setFlag (by simp) v

theorem storeWord_writesOnly {src : Reg} {a : Addr} (h : storeWord src a s = .next t) :
    WritesOnly [] flags (wordAddrs a) [] s t := by
  rw [storeWord_spec h]
  exact WritesOnly.refl.writeWord _

theorem storeHexad_writesOnly {src : Reg} {p : HexPart} {a : Addr} (h : storeHexad src p a s = .next t) :
    WritesOnly [] flags [a] [] s t := by
  rw [storeHexad_spec h]
  exact WritesOnly.refl.writeHexad (by simp) _

theorem ioInput_writesOnly {k : IoKind} {dst : Reg} {a : Nonad} (h : ioInput k dst a s = .next t) :
    WritesOnly [dst] flags addrs [.read a k (s.flag .b) (s.ioAnswer a k)] s t := by
  rw [ioInput_spec h]
  exact (WritesOnly.ioRead a k).set (by simp) _

theorem ioWrite_writesOnly {k : IoKind} {a : Nonad} {v : Word} (h : done (s.ioWrite a k v) = .next t) :
    WritesOnly [] flags addrs [.write a k v (s.flag .b)] s t := by
  cases h
  exact WritesOnly.refl.logIo _

end

/-! ## Everything an instruction can do -/

/-- From `s` to `t` no more has been written than the registers, flags and store addresses of `i`, and its events logged. -/
abbrev WithinOwn (i : Instr) (s t : State) : Prop :=
  WritesOnly i.destRegs i.destFlags (i.storeAddrs s) (i.ioEvents s) s t

/-- The five ways an instruction completes. -/
inductive Effect (i : Instr) (s : State) : State → Prop
  /-- IP stays at the following instruction -/
  | falls {t : State} (h : WithinOwn i s t) : Effect i s t
  /-- a control transfer, after a push, a pop or a saved return address (R240) -/
  | jumps {u : State} (hi : i.assignsIp = true) (h : WithinOwn i s u) (v : Int) : Effect i s (u.jump v)
  /-- a skip over the following instruction (R252) -/
  | skips (hi : i.assignsIp = true) (h : WithinOwn i s s) : Effect i s s.advance
  /-- an exception, precise: no other effect (R335) -/
  | raises (hi : i.canRaise = true) (h : WithinOwn i s s) (e : Exc) : Effect i s (s.raised e)
  /-- a write of a system register (R307) -/
  | writesSys {a : Reg} {k : SysReg} (hi : i = .ssr a k) : Effect i s (s.sysWrite k (s.get a))

namespace Effect

variable {i : Instr} {s t : State}

theorem of_raise (hi : i.canRaise = true) (hw : WithinOwn i s s) {e : Exc} (h : raise e s = .next t) : Effect i s t := by
  rw [raise_spec h]
  exact .raises hi hw e

theorem of_jump (hi : i.assignsIp = true) {u : State} {v : Int} (h : done (u.jump v) = .next t) (hw : WithinOwn i s u) :
    Effect i s t := by
  cases h
  exact .jumps hi hw v

theorem of_branchIf (hi : i.assignsIp = true) (hw : WithinOwn i s s) {f : Flag} {v : Trit} {d : Addr}
    (h : branchIf f v d s = .next t) : Effect i s t := by
  obtain ⟨-, rfl⟩ | ⟨-, rfl⟩ := branchIf_spec h
  · exact .jumps hi hw _
  · exact .falls hw

theorem of_skipIf (hi : i.assignsIp = true) (hw : WithinOwn i s s) {f : Flag} {v : Trit}
    (h : skipIf f v s = .next t) : Effect i s t := by
  obtain ⟨-, rfl⟩ | ⟨-, rfl⟩ := skipIf_spec h
  · exact .skips hi hw
  · exact .falls hw

theorem of_raised_or (hi : i.canRaise = true) (hw : WithinOwn i s s) {e : Exc} (h : t = s.raised e ∨ WithinOwn i s t) :
    Effect i s t := by
  obtain rfl | ht := h
  · exact .raises hi hw e
  · exact .falls ht

theorem of_execTbX {a b c : Reg} {f : Flag} (h : execTbX a b c f s = .next t) : Effect (.tbX a b c f) s t := by
  unfold execTbX at h
  split at h <;> exact of_jump rfl h .refl

theorem of_execLsr {k : SysReg} {a : Reg} (h : execLsr k a s = .next t) : Effect (.lsr k a) s t := by
  unfold execLsr at h
  split at h
  · exact of_raise rfl .refl h
  · exact .falls (set_writesOnly h)

theorem of_execSsr {a : Reg} {k : SysReg} (h : execSsr a k s = .next t) : Effect (.ssr a k) s t := by
  unfold execSsr at h
  split at h
  · exact of_raise rfl .refl h
  · split at h
    · exact of_raise rfl .refl h
    · cases h
      exact .writesSys rfl

end Effect

/-- Everything an instruction can do: its effect is one of the five, within what it says it writes. -/
theorem exec_effect {i : Instr} {s t : State} (h : exec i s = .next t) : Effect i s t := by
  cases i with
  | nop => cases h; exact .falls .refl
  | brk | ldx | stx | und => exact .of_raise rfl .refl h
  | srt | brr | bri | brs | bra | brl => exact .of_jump rfl h .refl
  | ret => exact .of_jump rfl h (WritesOnly.refl.set (by simp [Instr.destRegs]) _)
  | sys => exact .of_jump rfl h (WritesOnly.refl.set (by simp [Instr.destRegs]) _)
  | caa | cal | car => exact .of_jump rfl h (.push _)
  | tbX => exact .of_execTbX h
  | szX | spX | snX => exact .of_skipIf rfl .refl h
  | bzX | bpX | bnX => exact .of_branchIf rfl .refl h
  | zfX | pfX | nfX => exact .falls (setFlag_writesOnly h)
  | lsr => exact .of_execLsr h
  | ssr => exact .of_execSsr h
  | psh => cases h; exact .falls (.push _)
  | pop => cases h; exact .falls ((WritesOnly.refl.set (by simp [Instr.destRegs]) _).set (by simp [Instr.destRegs]) _)
  | add | adc | sub | sbc | adi | sbi | pad | psb => exact .falls (addTo_writesOnly h)
  | mul | mli | pmu => exact .falls (multiplyTo_writesOnly h)
  | div | dvi | pdv => exact .of_raised_or rfl .refl (divideTo_writesOnly h)
  | cmp | cmi => exact .falls (arithFlags_writesOnly h)
  | shl | shr => exact .falls (shiftCarry_writesOnly h)
  | rcl => exact .falls (shiftCarry_writesOnly (f := fun k x => rclRing x k) h)
  | rcr => exact .falls (shiftCarry_writesOnly (f := fun k x => rcrRing x k) h)
  | rol | ror => exact .falls (rotateOnly_writesOnly h)
  | tri => exact .falls (execTri_writesOnly h)
  | min | max | teq | tem | sti | pti | nti | bin | fdr | rdr | lda | lal | lam | lah | mov | srz | srp | srn | ldi | lil
  | lim | lih | ldr | ldl | ldm | ldh | lad => exact .falls (set_writesOnly h)
  | xch => cases h; exact .falls ((WritesOnly.refl.set (by simp [Instr.destRegs]) _).set (by simp [Instr.destRegs]) _)
  | ldn => cases h; exact .falls ((WritesOnly.refl.set (by simp [Instr.destRegs]) _).set (by simp [Instr.destRegs]) _)
  | stn => cases h; exact .falls ((WritesOnly.refl.writeWord _).set (by simp [Instr.destRegs]) _)
  | sta | str => exact .falls (storeWord_writesOnly h)
  | sal | sam | sah | stl | stm | sth => exact .falls (storeHexad_writesOnly h)
  | int | inb => exact .falls (ioInput_writesOnly h)
  | out | oub => exact .falls (ioWrite_writesOnly h)

/-! ## What a write of a system register leaves (R45, R307) -/

section
variable (s : State) (k : SysReg) (v : Word)

@[simp] theorem State.sysWrite_ip : (s.sysWrite k v).ip = if k = .cr0 then align v.val else s.ip := by
  cases k <;> rfl

@[simp] theorem State.sysWrite_cr1 : (s.sysWrite k v).cr1 = if k = .cr1 then FlagReg.ofWord v else s.cr1 := by
  cases k <;> rfl

@[simp] theorem State.sysWrite_cr2 : (s.sysWrite k v).cr2 = if k = .cr2 then v else s.cr2 := by
  cases k <;> rfl

@[simp] theorem State.sysWrite_cr4 : (s.sysWrite k v).cr4 = if k = .cr4 then v else s.cr4 := by
  cases k <;> rfl

@[simp] theorem State.sysWrite_dr1 : (s.sysWrite k v).dr1 = if k = .dr1 then v else s.dr1 := by
  cases k <;> rfl

@[simp] theorem State.sysWrite_dr2 : (s.sysWrite k v).dr2 = if k = .dr2 then v else s.dr2 := by
  cases k <;> rfl

@[simp] theorem State.sysWrite_dr3 : (s.sysWrite k v).dr3 = if k = .dr3 then v else s.dr3 := by
  cases k <;> rfl

@[simp] theorem State.sysWrite_dr4 : (s.sysWrite k v).dr4 = if k = .dr4 then v else s.dr4 := by
  cases k <;> rfl

end

/-! ## What each instruction leaves alone -/

namespace Effect

variable {i : Instr} {s t : State}

theorem onlyRegs (h : Effect i s t) : OnlyRegs s t i.destRegs := by
  cases h with
  | falls hw | jumps _ hw => exact hw.regs
  | skips | raises => exact fun _ _ => rfl
  | writesSys hi =>
    obtain ⟨hregs, -⟩ := s.sysWrite_frame _ _
    exact fun rg _ => congrArg (fun r => Regs.read r rg) hregs

theorem ip_eq (h : Effect i s t) (hassign : i.assignsIp = false) (hraise : i.canRaise = false) : t.ip = s.ip := by
  cases h with
  | falls hw => exact hw.ip
  | jumps hi | skips hi => exact absurd hi (by simp [hassign])
  | raises hi => exact absurd hi (by simp [hraise])
  | writesSys hi => exact absurd hassign (by simp [hi, Instr.assignsIp])

/-- The I/O log, the pending interrupts and the parameters. -/
theorem world (h : Effect i s t) :
    t.ioLog = s.ioLog ++ i.ioEvents s ∧ t.pendingInts = s.pendingInts ∧ t.params = s.params := by
  cases h with
  | falls hw | jumps _ hw | skips _ hw | raises _ hw => exact ⟨hw.ioLog, hw.pendingInts, hw.params⟩
  | writesSys hi =>
    obtain ⟨-, -, hlog, -, hpending, -, hparams⟩ := s.sysWrite_frame _ _
    exact ⟨by rw [hlog, hi, Instr.ioEvents, List.append_nil], hpending, hparams⟩

/-- The hexads of memory outside the store addresses (R63). -/
theorem readHexad_eq (h : Effect i s t) {x : Addr} (hx : x ∉ i.storeAddrs s) : t.readHexad x = s.readHexad x := by
  cases h with
  | falls hw | jumps _ hw => exact hw.mem x hx
  | skips | raises => rfl
  | writesSys =>
    obtain ⟨-, hmem, -⟩ := s.sysWrite_frame _ _
    exact congrArg (·.read x) hmem

theorem mem_wf (h : Effect i s t) (hs : s.mem.wf) : t.mem.wf := by
  cases h with
  | falls hw | jumps _ hw => exact hw.memWf hs
  | skips | raises => exact hs
  | writesSys =>
    obtain ⟨-, hmem, -⟩ := s.sysWrite_frame _ _
    exact hmem ▸ hs

theorem aligned (h : Effect i s t) (hs : Aligned s.ip) : Aligned t.ip := by
  cases h with
  | falls hw => exact hw.ip ▸ hs
  | jumps | raises => exact aligned_align _
  | skips => exact aligned_plus_three hs
  | writesSys =>
    rw [State.sysWrite_ip]
    split
    · exact aligned_align _
    · exact hs

theorem inv (h : Effect i s t) (hs : s.Inv) : t.Inv := by
  obtain ⟨hip, hmem, hpending⟩ := hs
  obtain ⟨-, hsame, -⟩ := h.world
  exact ⟨h.aligned hip, h.mem_wf hmem, fun n hn => hpending n (hsame ▸ hn)⟩

end Effect

/-- Settles O57: each of the five effects keeps the registers outside the instruction's own. -/
theorem instructionsWriteOnlyTheirRegisters : Obligations.InstructionsWriteOnlyTheirRegisters := by
  unfold Obligations.InstructionsWriteOnlyTheirRegisters
  intro i s t h
  exact ⟨(exec_effect h).onlyRegs, congrArg Bt.val t.get_z⟩

/-- Settles O58: only `writesSys` writes a system register other than `CR3`, and only `raises` and `writesSys` write `CR3`. -/
theorem instructionsWriteOnlyTheirFlags : Obligations.InstructionsWriteOnlyTheirFlags := by
  unfold Obligations.InstructionsWriteOnlyTheirFlags
  intro i s t h
  cases exec_effect h with
  | falls hw | jumps _ hw =>
    obtain ⟨h2, h3, h4, hd1, hd2, hd3, hd4⟩ := hw.sys
    exact ⟨fun _ => hw.flags, fun _ => h2, fun _ => h3, fun _ => h4, fun _ => hd1, fun _ => hd2, fun _ => hd3, fun _ => hd4⟩
  | skips =>
    exact ⟨fun _ _ _ => rfl, fun _ => rfl, fun _ => rfl, fun _ => rfl, fun _ => rfl, fun _ => rfl, fun _ => rfl,
      fun _ => rfl⟩
  | raises hi =>
    exact ⟨fun _ _ _ => rfl, fun _ => rfl, fun hno => absurd hi (by simp [hno]), fun _ => rfl, fun _ => rfl, fun _ => rfl,
      fun _ => rfl, fun _ => rfl⟩
  | @writesSys a k hi =>
    subst hi
    have ne_of {j : SysReg} (h : ∀ b, Instr.ssr a k ≠ .ssr b j) : k ≠ j := fun hkj => h a (hkj ▸ rfl)
    exact ⟨fun h j _ => congrArg (·.tritAt j) ((s.sysWrite_cr1 k _).trans (if_neg (ne_of h))),
      fun h => (s.sysWrite_cr2 k _).trans (if_neg (ne_of h)), fun hno => absurd hno (by simp [Instr.canRaise]),
      fun h => (s.sysWrite_cr4 k _).trans (if_neg (ne_of h)), fun h => (s.sysWrite_dr1 k _).trans (if_neg (ne_of h)),
      fun h => (s.sysWrite_dr2 k _).trans (if_neg (ne_of h)), fun h => (s.sysWrite_dr3 k _).trans (if_neg (ne_of h)),
      fun h => (s.sysWrite_dr4 k _).trans (if_neg (ne_of h))⟩

/-- Settles O60: `falls` keeps IP, and every effect logs the instruction's own events. -/
theorem instructionsMoveIpOnlyWhereTheySay : Obligations.InstructionsMoveIpOnlyWhereTheySay := by
  unfold Obligations.InstructionsMoveIpOnlyWhereTheySay
  intro i s t h
  exact ⟨(exec_effect h).ip_eq, (exec_effect h).world⟩

/-! ## What every step keeps (R27) -/

/-- What an interrupt, the entry of a handler, the advance of IP and every instruction keep, every step keeps: those are all it
does. -/
theorem step_keeps {P : State → Prop} (interrupt : ∀ s, P s → P s.takeInterrupt)
    (enter : ∀ s n saved, P s → P (s.enter n saved)) (advance : ∀ s, P s → P s.advance)
    (effect : ∀ i s t, Effect i s t → P s → P t) {s t : State} (hs : P s) (h : step s = .next t) : P t := by
  rcases step_cases h with
    ⟨-, rfl⟩ | ⟨-, -, rfl⟩ | ⟨-, -, ⟨i, u, -, hexec, ⟨-, rfl⟩ | ⟨-, rfl⟩⟩ | ⟨e, -, rfl⟩⟩
  case inl => exact interrupt s hs
  case inr.inl => exact enter s _ _ hs
  case inr.inr.inl.inl => exact effect i _ _ (exec_effect hexec) (advance s hs)
  case inr.inr.inl.inr => exact enter _ _ _ (advance s hs)
  case inr.inr.inr => exact enter _ _ _ (advance s hs)

/-- Taking an interrupt enters its handler and clears its pending signal (R341); with none pending nothing happens. -/
theorem takeInterrupt_cases (s : State) :
    s.takeInterrupt = s ∨ ∃ n rest, s.pendingInts = n :: rest ∧
      s.takeInterrupt = State.enter { s with pendingInts := rest } n s.ip := by
  cases hlist : s.pendingInts with
  | nil => exact .inl (by rw [State.takeInterrupt, hlist])
  | cons n rest => exact .inr ⟨n, rest, rfl, State.takeInterrupt_cons hlist⟩

theorem aligned_takeInterrupt {s : State} (hs : Aligned s.ip) : Aligned s.takeInterrupt.ip := by
  obtain heq | ⟨n, rest, -, heq⟩ := takeInterrupt_cases s <;> rw [heq]
  · exact hs
  · exact aligned_align _

theorem inv_takeInterrupt {s : State} (hs : s.Inv) : s.takeInterrupt.Inv := by
  obtain heq | ⟨n, rest, hlist, heq⟩ := takeInterrupt_cases s <;> rw [heq]
  · exact hs
  · obtain ⟨-, hmem, hpending⟩ := hs
    exact ⟨aligned_align _, hmem, fun m hm => hpending m (hlist ▸ List.mem_cons_of_mem n hm)⟩

theorem step_aligned {s t : State} (hs : Aligned s.ip) (h : step s = .next t) : Aligned t.ip :=
  step_keeps (P := fun s => Aligned s.ip) (fun _ => aligned_takeInterrupt) (fun _ _ _ _ => aligned_align _)
    (fun _ => aligned_plus_three) (fun _ _ _ => Effect.aligned) hs h

theorem step_inv {s t : State} (hs : s.Inv) (h : step s = .next t) : t.Inv :=
  step_keeps (P := State.Inv) (fun _ => inv_takeInterrupt) (fun _ _ _ ⟨_, hrest⟩ => ⟨aligned_align _, hrest⟩)
    (fun _ ⟨hip, hrest⟩ => ⟨aligned_plus_three hip, hrest⟩) (fun _ _ _ => Effect.inv) hs h

/-- Settles O46: every step assigns IP an aligned address or moves it by 3, and the addresses that start a word are those
congruent to -1 modulo 3. -/
theorem ipAlwaysStartsAWord : Obligations.IpAlwaysStartsAWord := by
  unfold Obligations.IpAlwaysStartsAWord
  refine ⟨?reset, fun s t hs h => step_aligned hs h, fun a => aligned_iff_exists, fun a => trit_zero_of_aligned, ?zero⟩
  case reset => exact resetMeetsTheInvariant.1
  case zero =>
    intro a ha
    obtain rfl : a = Bt.ofInt 12 (-1) := Bt.ext ha
    exact ⟨by decide, by decide⟩

/-- Settles O55: IP as in O46, the memory by the writes each effect allows, and the pending interrupts because a step only
takes the first of them. -/
theorem everyStepKeepsTheInvariant : Obligations.EveryStepKeepsTheInvariant := by
  unfold Obligations.EveryStepKeepsTheInvariant
  exact fun s t hs h => step_inv hs h

/-! ## The step and the instruction it runs (R27, R336) -/

theorem interruptReady_of_noInterrupt {s : State} (h : NoInterrupt s) : s.interruptReady = false := by
  rw [State.interruptReady, Bool.and_eq_false_iff]
  rcases h with hflag | hnone
  · exact .inl (decide_eq_false hflag)
  · exact .inr (by simp [hnone])

theorem breakpointHit_of_noBreakpoint {s : State} (h : NoBreakpoint s) : s.breakpointHit = false := by
  rw [State.breakpointHit, Bool.and_eq_false_iff]
  rcases h with hflag | ⟨h1, h2, h3, h4⟩
  · exact .inl (decide_eq_false hflag)
  · exact .inr (by simp [State.debugMatch, h1, h2, h3, h4])

theorem step_eq_checkFlags {s : State} {i : Instr} (hint : NoInterrupt s) (hbreak : NoBreakpoint s)
    (hdec : s.params.encoding.decode (s.readWord s.ip) = .ok i) : step s = checkFlags i s.advance (exec i s.advance) := by
  have hdecoded : s.decoded = .ok i := hdec
  simp [step, interruptReady_of_noInterrupt hint, breakpointHit_of_noBreakpoint hbreak, hdecoded]

theorem agrees_iff {f : FlagReg} {p : List (Nat × Trit)} : f.agrees p = true ↔ ∀ x ∈ p, f.tritAt x.1 = x.2 := by
  simp [FlagReg.agrees]

theorem meets_iff {c : FlagCondition} {i : Instr} {s t : State} :
    s.cr1.meets t.cr1 i c = true ↔ MeetsFlag c i s t := by
  rw [FlagReg.meets, Bool.and_eq_true, Bool.and_eq_true, agrees_iff, agrees_iff, and_assoc]
  refine and_congr_left fun _ => ?_
  cases c.instr <;> simp

/-- The model's `INVALID_FLAG` is met where one of its alternatives is (R336). -/
theorem invalidFlag_iff {i : Instr} {s t : State} :
    s.invalidFlag i t = true ↔ ∃ c ∈ s.params.invalidFlag, MeetsFlag c i s t := by
  rw [State.invalidFlag, List.any_eq_true]
  exact exists_congr fun c => and_congr_right fun _ => meets_iff

/-- Wrapping follows the words of R5. -/
theorem wrapOf_ofInt (n : Nat) (v : Int) : WrapOf n v (Bt.ofInt n v) :=
  ⟨shiftOut v n, by rw [← pow3_eq_pow]; exact eq_bt_add n v⟩

/-- The aligned address is the start of the word that contains the address (R8, R240). -/
theorem alignOf_align (v : Int) : AlignOf v (align v) := by
  obtain ⟨haligned, hlo, hhi⟩ := align_spec v
  refine ⟨haligned, bt 12 v - (align v).val, shiftOut v 12, by omega, by omega, ?_⟩
  have hv := eq_bt_add 12 v
  rw [pow3_eq_pow] at hv
  omega

/-- Entering a handler does what R334 says. -/
theorem entered_enter (s : State) (n : Int) (saved : Addr) : Entered s (s.enter n saved) n saved :=
  ⟨toWord_addr_val saved, ⟨s.vectorAddr n, wrapOf_ofInt 12 _, alignOf_align _⟩, fun _ _ => rfl, fun _ _ => rfl, fun _ => rfl,
    rfl, rfl, rfl, rfl, rfl, rfl, rfl, rfl, rfl⟩

/-- An exception saves the IP that `EXC_SAVED_IP` names (R334). -/
theorem raised_raised (s : State) (e : Exc) : Raised s (s.raised e) e.number := by
  refine ⟨fun hadvanced => ?_, fun hfaulting => ?_, rfl⟩
  · have hsaved : s.savedIp = s.ip := by rw [State.savedIp, hadvanced]
    exact hsaved ▸ entered_enter s e.number s.savedIp
  · have hsaved : s.savedIp = Bt.plus s.ip (-3) := by rw [State.savedIp, hfaulting]
    exact hsaved ▸ entered_enter s e.number s.savedIp

/-- The advance of IP wraps from the top word of memory (R28). -/
theorem plus_three_val (a : Addr) : (Bt.plus a 3).val = if a.val ≤ 265717 then a.val + 3 else a.val + 3 - 531441 := by
  have lo := a.lo
  have hi := a.hi
  rw [half_twelve] at lo hi
  rw [Bt.plus, Bt.ofInt_val, bt, half_twelve, pow3_twelve]
  split <;> omega

theorem checkFlags_of_meetsFlag {i : Instr} {s t : State} (h : ∃ c ∈ s.params.invalidFlag, MeetsFlag c i s t) :
    checkFlags i s (.next t) = .next (s.raised .invalidFlag) := by
  rw [checkFlags, if_pos (invalidFlag_iff.2 h), raise, done]

theorem checkFlags_of_not_meetsFlag {i : Instr} {s t : State} (h : ∀ c ∈ s.params.invalidFlag, ¬ MeetsFlag c i s t) :
    checkFlags i s (.next t) = .next t := by
  have hno : ¬ s.invalidFlag i t = true := by
    rw [invalidFlag_iff]
    rintro ⟨c, hc, hmeets⟩
    exact h c hc hmeets
  rw [checkFlags, if_neg hno]

/-- Settles O4: the step is the check of `INVALID_FLAG` on `exec` at the advanced state. -/
theorem stepRunsTheDecodedInstruction : Obligations.StepRunsTheDecodedInstruction := by
  unfold Obligations.StepRunsTheDecodedInstruction
  intro s u i hint hbreak hdec hu
  obtain rfl : u = s.advance := hu
  have hstep := step_eq_checkFlags hint hbreak hdec
  refine ⟨hstep, fun hnever => hstep.trans (checkFlags_never _ hnever), fun t ht => ?_, plus_three_val s.ip⟩
  rw [hstep, ht]
  exact ⟨fun hmet => ⟨_, checkFlags_of_meetsFlag hmet, raised_raised s.advance .invalidFlag⟩,
    checkFlags_of_not_meetsFlag (s := s.advance)⟩

end Sys2Proof.Machine
end

section
/-!
PROOFS for 20_memory.md: words and hexads read and written, each address wrapped (R61 to R64), where an instruction stores
(R63, R67, R71), and a stored word fetched as an instruction (R76).
-/

namespace Sys2Proof.Machine

/-! ## A word as three hexads (R61 to R64) -/

theorem readWord_val (s : State) (a : Addr) :
    (s.readWord a).val =
      (s.readHexad a).val + 729 * (s.readHexad (Bt.plus a 1)).val + 531441 * (s.readHexad (Bt.plus a 2)).val :=
  ofHexads_val _ _ _

theorem storedHexad_writeHexad (s : State) (a : Addr) (h : Hexad) : StoredHexad s (s.writeHexad a h) a h := by
  refine ⟨?written, fun x hx => ?frame⟩
  case written => rw [State.writeHexad_readHexad, if_pos rfl]
  case frame => rw [State.writeHexad_readHexad, if_neg hx]

/-- The three wrapped addresses differ, so none of the three writes undoes another. -/
theorem storedWord_writeWord (s : State) (a : Addr) (v : Word) : StoredWord s (s.writeWord a v) a v := by
  obtain ⟨hmid, hhigh, hhighmid⟩ := Bt.plus_ne a
  refine ⟨?low, ?mid, ?high, (WritesOnly.refl (regs := []) (flags := []).writeWord v).mem⟩
  case low => rw [State.writeWord_readHexad, if_pos rfl]
  case mid => rw [State.writeWord_readHexad, if_neg hmid, if_pos rfl]
  case high => rw [State.writeWord_readHexad, if_neg hhigh, if_neg hhighmid, if_pos rfl]

/-- The addresses above `a` are reduced to 12 trits by the words of R5. -/
theorem wrapOf_plus (a : Addr) (k : Int) : WrapOf 12 (a.val + k) (Bt.plus a k) :=
  wrapOf_ofInt 12 _

/-- Settles O6: a word is made of its three hexads, and each of the two writes is read back hexad by hexad. -/
theorem memoryWordsAreThreeHexads : Obligations.MemoryWordsAreThreeHexads := by
  unfold Obligations.MemoryWordsAreThreeHexads
  exact fun s a v h => ⟨readWord_val s a, hexads_val v, storedWord_writeWord s a v, storedHexad_writeHexad s a h,
    wrapOf_plus a 1, wrapOf_plus a 2⟩

/-! ## Where an instruction stores (R63, R67, R71) -/

/-- Settles O59: each of the five effects keeps the hexads outside the instruction's store addresses. -/
theorem instructionsStoreOnlyWhereTheySay : Obligations.InstructionsStoreOnlyWhereTheySay := by
  unfold Obligations.InstructionsStoreOnlyWhereTheySay
  exact fun i s t h x hx => (exec_effect h).readHexad_eq hx

/-! ## A stored word is fetched (R76, R91) -/

theorem exec_str (a : Reg) (addr : Addr) (s : State) :
    exec (.str a addr) s = .next (s.writeWord (s.eaAbs addr) (s.get a)) := rfl

/-- The step right after a word store at IP runs the word stored: the store leaves what decides on interrupts, breakpoints
and the encoding as it was. -/
theorem step_writeWord_ip {s : State} {v : Word} {i : Instr} (hint : NoInterrupt s) (hbreak : NoBreakpoint s)
    (hdec : s.params.encoding.decode v = .ok i) :
    step (s.writeWord s.ip v) = checkFlags i (s.writeWord s.ip v).advance (exec i (s.writeWord s.ip v).advance) := by
  refine step_eq_checkFlags hint hbreak ?_
  rw [State.writeWord_params, State.writeWord_ip, State.writeWord_readWord_same, hdec]

/-- Settles O50: `str` leaves the word stored at IP, where the next step fetches it. -/
theorem storedInstructionIsFetched : Obligations.StoredInstructionIsFetched := by
  unfold Obligations.StoredInstructionIsFetched
  intro s a addr i haddr hint hbreak hdec
  have hstep := step_writeWord_ip hint hbreak hdec
  refine ⟨s.writeWord s.ip (s.get a), _, ?store, rfl, hstep, fun hnever => ?run⟩
  case store => rw [exec_str, haddr]
  case run => exact hstep.trans (checkFlags_never (s := (s.writeWord s.ip (s.get a)).advance) _ hnever)

end Sys2Proof.Machine
end

section
/-!
PROOFS for 30_encoding.md: a word is its fields in each format (R94, R95), decoding and encoding are mutually inverse (R105),
the rows of the tables (R97 to R104), and the step at a word that spells no instruction (R106).
-/

namespace Sys2Proof

/-! ## A word is its fields (R94, R95) -/

/-- The part of a word from digit `k` upward is that digit and the part above it. -/
theorem shiftOut_eq_digit_add (w : Word) (k : Nat) :
    shiftOut w.val (3 * k) = (w.digit k).val + 27 * shiftOut w.val (3 * (k + 1)) := by
  rw [Bt.digit, Digit.val_ofInt, Nat.mul_succ, ← shiftOut_shiftOut]
  exact eq_bt_add 3 _

/-- A word has nothing above its top digit. -/
theorem shiftOut_fifteen_eq_digit (w : Word) : shiftOut w.val 15 = (w.digit 5).val := by
  have htop : shiftOut w.val 18 = 0 := (bt_unique w.lo w.hi (by ring)).2
  rw [shiftOut_eq_digit_add w 5, htop]
  ring

theorem wordX_fields (w : Word) : wordX (w.digit 5) w.rest15 = w := by
  apply Bt.ext
  rw [wordX_val, ← shiftOut_fifteen_eq_digit]
  exact (eq_bt_add 15 w.val).symm

theorem wordA_fields (w : Word) : wordA (w.digit 5) (w.digit 4) w.imm12 = w := by
  apply Bt.ext
  rw [wordA_val, ← shiftOut_fifteen_eq_digit, ← shiftOut_eq_digit_add w 4]
  exact (eq_bt_add 12 w.val).symm

theorem wordW_fields (w : Word) : wordW (w.digit 5) (w.digit 4) (w.digit 3) w.imm9 = w := by
  apply Bt.ext
  rw [wordW_val, ← shiftOut_fifteen_eq_digit, ← shiftOut_eq_digit_add w 4, ← shiftOut_eq_digit_add w 3]
  exact (eq_bt_add 9 w.val).symm

theorem wordI_fields (w : Word) : wordI (w.digit 5) (w.digit 4) (w.digit 3) (w.digit 2) w.imm6 = w := by
  apply Bt.ext
  rw [wordI_val, ← shiftOut_fifteen_eq_digit, ← shiftOut_eq_digit_add w 4, ← shiftOut_eq_digit_add w 3,
    ← shiftOut_eq_digit_add w 2]
  exact (eq_bt_add 6 w.val).symm

theorem word6_digits (w : Word) :
    word6 (w.digit 5) (w.digit 4) (w.digit 3) (w.digit 2) (w.digit 1) (w.digit 0) = w := by
  apply Bt.ext
  rw [word6_val, ← shiftOut_fifteen_eq_digit, ← shiftOut_eq_digit_add w 4, ← shiftOut_eq_digit_add w 3,
    ← shiftOut_eq_digit_add w 2, ← shiftOut_eq_digit_add w 1, ← shiftOut_eq_digit_add w 0]
  exact shiftOut_zero w.val

/-- The word of six digits is the only one with these digits. -/
theorem word6_eq_iff {d5 d4 d3 d2 d1 d0 : Digit} {w : Word} : word6 d5 d4 d3 d2 d1 d0 = w ↔
    w.digit 5 = d5 ∧ w.digit 4 = d4 ∧ w.digit 3 = d3 ∧ w.digit 2 = d2 ∧ w.digit 1 = d1 ∧ w.digit 0 = d0 := by
  constructor
  · rintro rfl
    exact digit_word6 d5 d4 d3 d2 d1 d0
  · rintro ⟨rfl, rfl, rfl, rfl, rfl, rfl⟩
    exact word6_digits w

theorem wordI_eq_iff {d5 d4 d3 d2 : Digit} {imm : Hexad} {w : Word} : wordI d5 d4 d3 d2 imm = w ↔
    w.digit 5 = d5 ∧ w.digit 4 = d4 ∧ w.digit 3 = d3 ∧ w.digit 2 = d2 ∧ w.imm6 = imm := by
  constructor
  · rintro rfl
    exact fields_wordI d5 d4 d3 d2 imm
  · rintro ⟨rfl, rfl, rfl, rfl, rfl⟩
    exact wordI_fields w

theorem wordW_eq_iff {d5 d4 d3 : Digit} {imm : Nonad} {w : Word} : wordW d5 d4 d3 imm = w ↔
    w.digit 5 = d5 ∧ w.digit 4 = d4 ∧ w.digit 3 = d3 ∧ w.imm9 = imm := by
  constructor
  · rintro rfl
    exact fields_wordW d5 d4 d3 imm
  · rintro ⟨rfl, rfl, rfl, rfl⟩
    exact wordW_fields w

theorem wordA_eq_iff {d5 d4 : Digit} {imm : Addr} {w : Word} : wordA d5 d4 imm = w ↔
    w.digit 5 = d5 ∧ w.digit 4 = d4 ∧ w.imm12 = imm := by
  constructor
  · rintro rfl
    exact fields_wordA d5 d4 imm
  · rintro ⟨rfl, rfl, rfl⟩
    exact wordA_fields w

theorem wordX_eq_iff {d5 : Digit} {rest : Bt 15} {w : Word} : wordX d5 rest = w ↔ w.digit 5 = d5 ∧ w.rest15 = rest := by
  constructor
  · rintro rfl
    exact fields_wordX d5 rest
  · rintro ⟨rfl, rfl⟩
    exact wordX_fields w

/-! ## The selectors and the unused fields (R103 to R105) -/

theorem Flag.check_eq_some_iff {d : Digit} {f : Flag} : Flag.check d.val = some f ↔ d = f.digit := by
  constructor
  · intro h
    have hsel : f.sel = d.val := by simpa using List.find?_some h
    rw [Flag.digit, hsel, Digit.ofInt_val]
  · rintro rfl
    rw [Flag.digit_val, Flag.check_sel]

theorem SysReg.check_eq_some_iff {d : Digit} {k : SysReg} : SysReg.check d.val = some k ↔ d = k.digit := by
  constructor
  · intro h
    have hsel : k.sel = d.val := by simpa using List.find?_some h
    rw [SysReg.digit, hsel, Digit.ofInt_val]
  · rintro rfl
    rw [SysReg.digit_val, SysReg.check_sel]

theorem unusedZero_eq_ok_iff {ds : List Digit} {i j : Instr} :
    unusedZero ds i = .ok j ↔ i = j ∧ ∀ d ∈ ds, d = .zero := by
  rw [unusedZero]
  split
  case isTrue hzero => simpa using fun _ => hzero
  case isFalse hzero => simpa using fun _ => hzero

theorem withFlag_eq_ok_iff {d : Digit} {mk : Flag → Decoded} {j : Instr} :
    withFlag d mk = .ok j ↔ ∃ f, d = f.digit ∧ mk f = .ok j := by
  simp only [← Flag.check_eq_some_iff]
  unfold withFlag
  split <;> simp_all

theorem withSysReg_eq_ok_iff {d : Digit} {mk : SysReg → Decoded} {j : Instr} :
    withSysReg d mk = .ok j ↔ ∃ k, d = k.digit ∧ mk k = .ok j := by
  simp only [← SysReg.check_eq_some_iff]
  unfold withSysReg
  split <;> simp_all

@[simp] theorem unusedZero_nil (i : Instr) : unusedZero [] i = .ok i := rfl

@[simp] theorem unusedZero_zero_cons (ds : List Digit) (i : Instr) : unusedZero (.zero :: ds) i = unusedZero ds i := rfl

@[simp] theorem withFlag_digit (f : Flag) (mk : Flag → Decoded) : withFlag f.digit mk = mk f := by
  rw [withFlag, Flag.digit_val, Flag.check_sel]

@[simp] theorem withSysReg_digit (k : SysReg) (mk : SysReg → Decoded) : withSysReg k.digit mk = mk k := by
  rw [withSysReg, SysReg.digit_val, SysReg.check_sel]

/-! ## Decoding and encoding (R105) -/

/-- The fields of the word the encoder makes are the operands, so the decoder finds them again. -/
theorem decode_encode (i : Instr) : decode (encode i) = .ok i := by
  cases i with
  | nop | brk | ret | srt | brr | caa | tbX | szX | spX | snX | zfX | pfX | nfX | lsr | ssr | psh | pop =>
    simp [encode, decode, decodeS, digit_word6]
  | add | adc | sub | sbc | mul | div | cmp | min | max | teq | tem | sti | pti | nti | bin | tri | fdr | rdr =>
    simp [encode, decode, decodeR, digit_word6]
  | lda | lal | lam | lah | sta | sal | sam | sah | mov | xch | srz | srp | srn =>
    simp [encode, decode, decodeM, digit_word6]
  | adi | sbi | mli | dvi | cmi | shl | shr | rol | ror | rcl | rcr | ldi | lil | lim | lih | ldn | stn | bri | brs | sys =>
    simp [encode, decode, decodeI, fields_wordI]
  | pad | psb | pmu | pdv | int | inb | out | oub => simp [encode, decode, decodeW, fields_wordW]
  | ldr | ldl | ldm | ldh | str | stl | stm | sth | lad | bra | brl | cal | car | bzX | bpX | bnX =>
    simp [encode, decode, fields_wordA]
  | ldx | stx | und => simp [encode, decode, fields_wordX]

/-- Settles O53: in each format the decoder reads back the fields the encoder wrote. -/
theorem decodeOfEncode : Obligations.DecodeOfEncode := by
  unfold Obligations.DecodeOfEncode
  exact decode_encode

theorem encode_of_decodeS {w : Word} {i : Instr} (h5 : w.digit 5 = .zero) (h : decodeS w = .ok i) : encode i = w := by
  unfold decodeS at h
  cases h4 : w.digit 4 with
  | zero | A | B | C | D | E | o | p =>
    simp only [h4, unusedZero_eq_ok_iff] at h
    obtain ⟨rfl, hzero⟩ := h
    simpa [encode, word6_eq_iff, h5, h4] using hzero
  | F =>
    simp only [h4, withFlag_eq_ok_iff] at h
    obtain ⟨f, h0, hi⟩ := h
    cases hi
    simp [encode, word6_eq_iff, h5, h4, h0]
  | G | H | I | J | K | L =>
    simp only [h4, withFlag_eq_ok_iff, unusedZero_eq_ok_iff] at h
    obtain ⟨f, h0, rfl, hzero⟩ := h
    simpa [encode, word6_eq_iff, h5, h4, h0] using hzero
  | M | n =>
    simp only [h4, withSysReg_eq_ok_iff, unusedZero_eq_ok_iff] at h
    obtain ⟨k, hsel, rfl, hzero⟩ := h
    simpa [encode, word6_eq_iff, h5, h4, hsel] using hzero
  | q | r | s | t | u | v | w | x | y | z => simp [h4] at h

theorem encode_of_decodeR {w : Word} {i : Instr} (h5 : w.digit 5 = .A) (h : decodeR w = .ok i) : encode i = w := by
  unfold decodeR at h
  cases h4 : w.digit 4 with
  | A | B | C | D | E | F | G | H | I | J | K | L | M | n | o | p | q | r =>
    simp only [h4, unusedZero_eq_ok_iff] at h
    obtain ⟨rfl, hzero⟩ := h
    simpa [encode, word6_eq_iff, h5, h4] using hzero
  | zero | s | t | u | v | w | x | y | z => simp [h4] at h

theorem encode_of_decodeM {w : Word} {i : Instr} (h5 : w.digit 5 = .B) (h : decodeM w = .ok i) : encode i = w := by
  unfold decodeM at h
  cases h4 : w.digit 4 with
  | A | B | C | D | E | F | G | H | I | J | K | L | M =>
    simp only [h4, unusedZero_eq_ok_iff] at h
    obtain ⟨rfl, hzero⟩ := h
    simpa [encode, word6_eq_iff, h5, h4] using hzero
  | zero | n | o | p | q | r | s | t | u | v | w | x | y | z => simp [h4] at h

theorem encode_of_decodeI {w : Word} {i : Instr} (h5 : w.digit 5 = .C) (h : decodeI w = .ok i) : encode i = w := by
  unfold decodeI at h
  cases h4 : w.digit 4 with
  | A | B | C | D =>
    simp only [h4] at h
    cases h
    simp [encode, wordI_eq_iff, h5, h4]
  | E | F | G | H | I | J | K | L | M | n | o | p | q | r | s | t =>
    simp only [h4, unusedZero_eq_ok_iff] at h
    obtain ⟨rfl, hzero⟩ := h
    simpa [encode, wordI_eq_iff, h5, h4] using hzero
  | zero | u | v | w | x | y | z => simp [h4] at h

theorem encode_of_decodeW {w : Word} {i : Instr} (h5 : w.digit 5 = .D) (h : decodeW w = .ok i) : encode i = w := by
  unfold decodeW at h
  cases h4 : w.digit 4 with
  | A | B | C | D | E | F | G | H =>
    simp only [h4] at h
    cases h
    simp [encode, wordW_eq_iff, h5, h4]
  | zero | I | J | K | L | M | n | o | p | q | r | s | t | u | v | w | x | y | z => simp [h4] at h

/-- The fields the decoder checks or reads are all of the word's, so the instruction determines them. -/
theorem encode_of_decode {w : Word} {i : Instr} (h : decode w = .ok i) : encode i = w := by
  unfold decode at h
  cases h5 : w.digit 5 with
  | zero => exact encode_of_decodeS h5 (by simpa only [h5] using h)
  | A => exact encode_of_decodeR h5 (by simpa only [h5] using h)
  | B => exact encode_of_decodeM h5 (by simpa only [h5] using h)
  | C => exact encode_of_decodeI h5 (by simpa only [h5] using h)
  | D => exact encode_of_decodeW h5 (by simpa only [h5] using h)
  | E | F | G | H | I | J | K | L =>
    simp only [h5] at h
    cases h
    simp [encode, wordA_eq_iff, h5]
  | M | n | o | p | q =>
    simp only [h5, unusedZero_eq_ok_iff] at h
    obtain ⟨rfl, hzero⟩ := h
    simpa [encode, wordA_eq_iff, h5] using hzero
  | r | s | t =>
    simp only [h5, withFlag_eq_ok_iff] at h
    obtain ⟨f, h4, hi⟩ := h
    cases hi
    simp [encode, wordA_eq_iff, h5, h4]
  | u | v | w => simp [h5] at h
  | x | y | z =>
    simp only [h5] at h
    cases h
    simp [encode, wordX_eq_iff, h5]

/-- Settles O54: in each format the word is the only one with the fields of its instruction. -/
theorem encodeOfDecode : Obligations.EncodeOfDecode := by
  unfold Obligations.EncodeOfDecode
  exact fun _ _ h => encode_of_decode h

/-! ## The tables (R97 to R104) -/

theorem decode_of_encode_eq {w : Word} {i : Instr} (h : encode i = w) : decode w = .ok i :=
  h ▸ decode_encode i

theorem spells_of_encode_eq {w : Word} {i : Instr} (h : encode i = w) : Machine.Spells w i :=
  ⟨decode_of_encode_eq h, h⟩

/-- A table whose column of words is the encodings of its column of instructions. -/
theorem spells_of_map_encode_eq {rows : List (Word × Instr)}
    (hrows : rows.map (fun p => encode p.2) = rows.map (fun p => p.1)) : ∀ p ∈ rows, Machine.Spells p.1 p.2 :=
  fun p hp => spells_of_encode_eq (List.map_inj_left.1 hrows p hp)

/-- Settles O52: each row's word is what the encoder writes, so it decodes to the row's instruction. -/
theorem instructionsSpellTheirTableWords : Obligations.InstructionsSpellTheirTableWords := by
  unfold Obligations.InstructionsSpellTheirTableWords
  exact ⟨by decide, by decide, fun _ _ _ _ _ _ _ _ _ => spells_of_map_encode_eq rfl⟩

/-- Settles O3: nine words are what the encoder writes, and the digit `w` is the major opcode of no format. -/
theorem wordsDecodeAsTheTablesSay : Obligations.WordsDecodeAsTheTablesSay := by
  unfold Obligations.WordsDecodeAsTheTablesSay
  refine ⟨decode_encode .nop, decode_encode (.tbX .A .B .C .s), decode_encode (.lsr .cr3 .A), decode_encode (.add .A .B .C),
    decode_encode (.xch .A .B), decode_of_encode_eq (by decide), decode_of_encode_eq (by decide),
    decode_of_encode_eq (by decide), decode_of_encode_eq (by decide), ?unassigned⟩
  case unassigned => simp [decode, digit_word6]

end Sys2Proof

namespace Sys2Proof.Machine

/-! ## A word that spells no instruction (R106) -/

theorem step_eq_raised_undefinedOpcode {s : State} {e : DecodeError} (hint : NoInterrupt s) (hbreak : NoBreakpoint s)
    (hdec : s.params.encoding.decode (s.readWord s.ip) = .error e) : step s = .next (s.advance.raised .undefinedOpcode) := by
  have hdecoded : s.decoded = .error e := hdec
  simp [step, interruptReady_of_noInterrupt hint, breakpointHit_of_noBreakpoint hbreak, hdecoded, raise, done]

/-- Settles O49: the step raises `#OP` from the advanced state, and raising it does what R334 says. -/
theorem undefinedWordRaises : Obligations.UndefinedWordRaises := by
  unfold Obligations.UndefinedWordRaises
  exact fun s _ hint hbreak hdec =>
    ⟨_, step_eq_raised_undefinedOpcode hint hbreak hdec, raised_raised s.advance .undefinedOpcode⟩

end Sys2Proof.Machine
end

section
/-!
PROOFS for 40_arithmetic.md: an exact result split in its low word and what stands above it (R130, R139), quotients and
remainders (R144), and what the add, multiply and divide families write (R131 to R148).
-/

namespace Sys2Proof

/-! ## Integers of so many trits (R3) -/

/-- The integers of `n` trits: the values of `Bt n`, by `Bt.exists_val_iff`. -/
abbrev InTrits (n : Nat) (v : Int) : Prop :=
  -half n ≤ v ∧ v ≤ half n

theorem Bt.inTrits {n : Nat} (w : Bt n) : InTrits n w.val :=
  ⟨w.lo, w.hi⟩

theorem half_le_half {m n : Nat} (h : m ≤ n) : half m ≤ half n := by
  obtain ⟨k, rfl⟩ := Nat.exists_eq_add_of_le h
  rw [half_add]
  have hrest : 0 ≤ pow3 m * half k := mul_nonneg (pow3_pos m).le (half_nonneg k)
  omega

theorem InTrits.mono {m n : Nat} {v : Int} (h : InTrits m v) (hmn : m ≤ n) : InTrits n v := by
  have hhalf := half_le_half hmn
  exact ⟨by omega, by omega⟩

/-- A sum of two numbers and a carry needs one trit more (R130). -/
theorem InTrits.add_add_carry {n : Nat} {v w : Int} (hv : InTrits n v) (hw : InTrits n w) (c : Trit) :
    InTrits (n + 1) (v + w + c.toInt) := by
  have hc := c.toInt_range
  simp only [InTrits, half] at *
  omega

theorem InTrits.add {n : Nat} {v w : Int} (hv : InTrits n v) (hw : InTrits n w) : InTrits (n + 1) (v + w) := by
  simpa [Trit.toInt] using hv.add_add_carry hw .zero

theorem InTrits.sub_sub_carry {n : Nat} {v w : Int} (hv : InTrits n v) (hw : InTrits n w) (c : Trit) :
    InTrits (n + 1) (v - w - c.toInt) := by
  have hc := c.toInt_range
  simp only [InTrits, half] at *
  omega

theorem InTrits.sub {n : Nat} {v w : Int} (hv : InTrits n v) (hw : InTrits n w) : InTrits (n + 1) (v - w) := by
  simpa [Trit.toInt] using hv.sub_sub_carry hw .zero

/-- A product has at most as many trits as its factors together (R139). -/
theorem InTrits.mul {m n : Nat} {v w : Int} (hv : InTrits m v) (hw : InTrits n w) : InTrits (m + n) (v * w) := by
  have habs : |v * w| ≤ half m * half n := by
    rw [abs_mul]
    exact mul_le_mul (abs_le.2 hv) (abs_le.2 hw) (abs_nonneg w) (half_nonneg m)
  have hle : half m * half n ≤ half (m + n) := by
    rw [half_add]
    nlinarith [half_nonneg m, half_nonneg n, pow3_eq_half m]
  exact abs_le.1 (habs.trans hle)

/-- What stands above the low `a` trits of an integer of `a + b` trits has `b` trits. -/
theorem inTrits_shiftOut {a b : Nat} {v : Int} (h : InTrits (a + b) v) : InTrits b (shiftOut v a) := by
  have hsplit := eq_bt_add a v
  have hlo := neg_half_le_bt a v
  have hhi := bt_le_half a v
  have hpow := pow3_eq_half a
  rw [InTrits, half_add] at h
  obtain ⟨hvlo, hvhi⟩ := h
  have hlower : pow3 a * (-half b - 1) < pow3 a * shiftOut v a := by linarith
  have hupper : pow3 a * shiftOut v a < pow3 a * (half b + 1) := by linarith
  have hlt := lt_of_mul_lt_mul_left hlower (pow3_pos a).le
  have hgt := lt_of_mul_lt_mul_left hupper (pow3_pos a).le
  exact ⟨by omega, by omega⟩

/-- An integer of `a + b` trits is made of its low `a` and its upper `b` trits (R130, R139). -/
theorem eq_high_mul_add_low {a b : Nat} {v : Int} (h : InTrits (a + b) v) :
    v = bt b (shiftOut v a) * 3 ^ a + bt a v := by
  obtain ⟨hlo, hhi⟩ := inTrits_shiftOut h
  rw [bt_of_range hlo hhi, ← pow3_eq_pow, mul_comm, add_comm]
  exact eq_bt_add a v

/-! ## The sign of an integer (R7) -/

@[simp] theorem signTrit_toInt (v : Int) : (signTrit v).toInt = v.sign := by
  rw [signTrit]
  rcases lt_trichotomy v 0 with hneg | rfl | hpos
  · rw [if_neg hneg.ne, if_neg hneg.le.not_gt, Int.sign_eq_neg_one_of_neg hneg, Trit.toInt]
  · rfl
  · rw [if_neg hpos.ne', if_pos hpos, Int.sign_eq_one_of_pos hpos, Trit.toInt]

/-! ## Quotients and remainders (R144) -/

/-- Truncated division divides the magnitudes and multiplies the signs. -/
theorem tdiv_eq_sign_mul_natAbs_div (N d : Int) : N.tdiv d = N.sign * d.sign * ((N.natAbs / d.natAbs : Nat) : Int) := by
  rw [← Int.sign_mul_natAbs (N.tdiv d), Int.natAbs_tdiv, Int.sign_tdiv]
  split
  case isTrue hlt => simp [Nat.div_eq_of_lt hlt]
  case isFalse => rfl

theorem natAbs_tmod_lt (N : Int) {d : Int} (hd : d ≠ 0) : (N.tmod d).natAbs < d.natAbs := by
  rw [Int.natAbs_tmod]
  exact Nat.mod_lt _ (Int.natAbs_pos.2 hd)

/-- A remainder that is not 0 has the sign of the dividend. -/
theorem sign_tmod_of_ne_zero {N d : Int} (h : N.tmod d ≠ 0) : (N.tmod d).sign = N.sign := by
  rw [Int.sign_tmod, if_neg (fun hdvd => h (Int.tmod_eq_zero_of_dvd hdvd))]

end Sys2Proof

namespace Sys2Proof.Machine

/-- The truncated pair, or one step further from zero where the division is not exact. -/
theorem quotRem_cases (away : Bool) (N d : Int) :
    quotRem away N d = (N.tdiv d, N.tmod d) ∨
      (N.tmod d ≠ 0 ∧ quotRem away N d = (N.tdiv d + N.sign * d.sign, N.tmod d - N.sign * d.natAbs)) := by
  by_cases hstep : away = true ∧ N.tmod d ≠ 0
  · have ⟨_, hm⟩ := hstep
    exact .inr ⟨hm, if_pos hstep⟩
  · exact .inl (if_neg hstep)

theorem quotRem_mul_add (away : Bool) (N d : Int) : (quotRem away N d).1 * d + (quotRem away N d).2 = N := by
  obtain h | ⟨-, h⟩ := quotRem_cases away N d <;> rw [h]
  · exact Int.tdiv_mul_add_tmod N d
  · calc (N.tdiv d + N.sign * d.sign) * d + (N.tmod d - N.sign * d.natAbs)
        = (N.tdiv d * d + N.tmod d) + N.sign * (d.sign * d - d.natAbs) := by ring
      _ = N := by rw [Int.sign_mul_self_eq_natAbs, sub_self, mul_zero, add_zero, Int.tdiv_mul_add_tmod]

/-- Rounding away from zero moves a remainder that is not 0 by `|d|` towards the other sign. -/
theorem natAbs_quotRem_lt (away : Bool) (N : Int) {d : Int} (hd : d ≠ 0) :
    (quotRem away N d).2.natAbs < d.natAbs := by
  have hlt := natAbs_tmod_lt N hd
  obtain h | ⟨hm, h⟩ := quotRem_cases away N d <;> rw [h]
  · exact hlt
  · have hmag := Int.sign_mul_natAbs (N.tmod d)
    rw [sign_tmod_of_ne_zero hm] at hmag
    rcases Int.sign_trichotomy N with hs | hs | hs <;> rw [hs] at hmag ⊢ <;> omega

/-- Under every setting of `DIVMOD` the quotient is one of the two of `quotRem` (R144). -/
theorem divMod_eq_quotRem (p : Params) (N d : Int) : ∃ away, divMod p N d = quotRem away N d := by
  unfold divMod
  split
  · exact ⟨_, rfl⟩
  · exact ⟨_, rfl⟩

theorem divMod_mul_add (p : Params) (N d : Int) : (divMod p N d).1 * d + (divMod p N d).2 = N := by
  obtain ⟨away, h⟩ := divMod_eq_quotRem p N d
  rw [h, quotRem_mul_add]

theorem natAbs_divMod_lt (p : Params) (N : Int) {d : Int} (hd : d ≠ 0) : (divMod p N d).2.natAbs < d.natAbs := by
  obtain ⟨away, h⟩ := divMod_eq_quotRem p N d
  rw [h]
  exact natAbs_quotRem_lt away N hd

/-- The default `DIVMOD` truncates toward zero (R144). -/
theorem divMod_quotient_of_truncate {p : Params} (hp : p.divMod = .truncate) (N d : Int) :
    (divMod p N d).1 = N.sign * d.sign * ((N.natAbs / d.natAbs : Nat) : Int) := by
  rw [divMod, hp]
  exact tdiv_eq_sign_mul_natAbs_div N d

/-- A remainder by a divisor of `n` trits has `n` trits. -/
theorem inTrits_divMod_remainder (p : Params) (N : Int) {n : Nat} {d : Int} (hd : d ≠ 0) (hn : InTrits n d) :
    InTrits n (divMod p N d).2 := by
  have hlt := natAbs_divMod_lt p N hd
  obtain ⟨hlo, hhi⟩ := hn
  exact ⟨by omega, by omega⟩

/-! ## A register written, and what stays -/

theorem wrote_set (s : State) (dst : Reg) (v : Word) : Wrote (s.set dst v) dst v := by
  refine ⟨fun hz => ?_, congrArg Bt.val (s.set dst v).get_z⟩
  rw [State.set_get, if_pos ⟨rfl, hz⟩]

/-- A later write of another register leaves what was written. -/
theorem Wrote.set_of_ne {s : State} {dst other : Reg} {v : Word} (h : Wrote s dst v) (hne : dst ≠ other) (w : Word) :
    Wrote (s.set other w) dst v := by
  obtain ⟨hread, -⟩ := h
  refine ⟨fun hz => ?_, congrArg Bt.val (s.set other w).get_z⟩
  rw [State.set_get, if_neg (fun hand => hne hand.1), hread hz]

/-- An instruction that stores nothing, logs nothing and takes no lined-up answer changes only its registers and flags. -/
theorem WritesOnly.keepsAll {regs : List Reg} {flags : List Flag} {s t : State} (h : WritesOnly regs flags [] [] s t)
    (hanswers : t.ioAnswers = s.ioAnswers) : KeepsAll s t regs flags :=
  ⟨⟨h.regs, h.flags, h.sys, h.ioLog.trans (List.append_nil _), hanswers, h.pendingInts, h.params⟩, h.ip,
    fun x => h.mem x List.not_mem_nil⟩

/-! ## Addition and subtraction (R130 to R138) -/

/-- Every instruction that runs `addTo` on an exact result of 19 trits writes it as R130 says: its upper trit is the Carry. -/
theorem sumInto_of_exec_eq_addTo {i : Instr} {s : State} {dst : Reg} {e : Int} (hi : exec i s = addTo dst e s)
    (he : InTrits 19 e) : ∃ t, exec i s = .next t ∧ SumInto s t e dst := by
  refine ⟨(s.put dst e).arithFlags e, hi, toWord e, ?sum, ?sign, ?wrote, ?frame⟩
  case sum => simpa using eq_high_mul_add_low (a := 18) (b := 1) he
  case sign => simp
  case wrote => exact wrote_set s dst (toWord e)
  case frame => exact (addTo_writesOnly rfl).keepsAll rfl

/-- Settles O8: each sum, with the old Carry or without, has 19 trits. -/
theorem additionsWriteSumCarryAndSign : Obligations.AdditionsWriteSumCarryAndSign := by
  unfold Obligations.AdditionsWriteSumCarryAndSign
  intro s a b c imm imm9
  have ha := (s.get a).inTrits
  refine ⟨sumInto_of_exec_eq_addTo rfl ?add, sumInto_of_exec_eq_addTo rfl ?adc, sumInto_of_exec_eq_addTo rfl ?adi,
    sumInto_of_exec_eq_addTo rfl ?pad⟩
  case add => exact ha.add (s.get b).inTrits
  case adc => exact ha.add_add_carry (s.get b).inTrits (s.flag .c)
  case adi => exact ha.add (imm.inTrits.mono (by decide))
  case pad => exact ha.add (imm9.inTrits.mono (by decide))

/-- Settles O9: each difference, with the old Carry or without, has 19 trits. -/
theorem subtractionsWriteDifferenceCarryAndSign : Obligations.SubtractionsWriteDifferenceCarryAndSign := by
  unfold Obligations.SubtractionsWriteDifferenceCarryAndSign
  intro s a b c imm imm9
  have ha := (s.get a).inTrits
  refine ⟨sumInto_of_exec_eq_addTo rfl ?sub, sumInto_of_exec_eq_addTo rfl ?sbc, sumInto_of_exec_eq_addTo rfl ?sbi,
    sumInto_of_exec_eq_addTo rfl ?psb⟩
  case sub => exact ha.sub (s.get b).inTrits
  case sbc => exact ha.sub_sub_carry (s.get b).inTrits (s.flag .c)
  case sbi => exact ha.sub (imm.inTrits.mono (by decide))
  case psb => exact ha.sub (imm9.inTrits.mono (by decide))

/-! ## Multiplication (R139 to R143) -/

theorem writeProduct_of_ne {dst : Reg} (hdst : dst ≠ .o) (p : Int) (s : State) :
    writeProduct dst p s = (s.set dst (productLow p)).set .o (productHigh p) :=
  if_neg hdst

/-- Every instruction that runs `multiplyTo` on a product of 36 trits writes its two words as R140 says. -/
theorem productInto_of_exec_eq_multiplyTo {i : Instr} {s : State} {dst : Reg} {p : Int}
    (hi : exec i s = multiplyTo dst p s) (hdst : dst ≠ .o) (hp : InTrits 36 p) :
    ∃ t, exec i s = .next t ∧ ProductInto s t p dst := by
  refine ⟨((writeProduct dst p s).mulFlags p).drew, hi, productLow p, productHigh p, ?product, ?low, ?high, ?sign, ?frame⟩
  case product => exact eq_high_mul_add_low (a := 18) (b := 18) hp
  case low => rw [writeProduct_of_ne hdst]; exact Wrote.set_of_ne (wrote_set s dst _) hdst _
  case high => simp [writeProduct_of_ne hdst]
  case sign => simp
  case frame => exact (multiplyTo_writesOnly rfl).keepsAll (by simp [writeProduct_of_ne hdst])

/-- Settles O11: each product has 36 trits. -/
theorem productsSplitIntoTwoWords : Obligations.ProductsSplitIntoTwoWords := by
  unfold Obligations.ProductsSplitIntoTwoWords
  intro s a b c imm imm9
  have ha := (s.get a).inTrits
  refine ⟨fun hc => productInto_of_exec_eq_multiplyTo rfl hc ?mul, fun hb => productInto_of_exec_eq_multiplyTo rfl hb ?mli,
    fun ho => productInto_of_exec_eq_multiplyTo rfl ho ?pmu⟩
  case mul => exact ha.mul (s.get b).inTrits
  case mli => exact (ha.mul imm.inTrits).mono (by decide)
  case pmu => exact (ha.mul imm9.inTrits).mono (by decide)

/-! ## Division (R144 to R148) -/

/-- Every instruction that runs `divideTo` with the divisor 0 raises `#D0` (R144, R332). -/
theorem raised_of_exec_eq_divideTo {i : Instr} {s : State} {a dst : Reg} {d : Int} (hi : exec i s = divideTo a d dst s)
    (hd : d = 0) : ∃ t, exec i s = .next t ∧ Raised s t 0 :=
  ⟨s.raised .divideByZero, hi.trans (if_pos hd), raised_raised s .divideByZero⟩

/-- The Carry of a divide: whether a quotient fits a word is a matter of its magnitude (R145). -/
theorem divFlags_carry_toInt (s : State) (q : Int) :
    ((s.divFlags q).flag .c).toInt = if q.natAbs ≤ 193710244 then 0 else q.sign := by
  rw [State.divFlags_flag, half_eighteen]
  by_cases hfits : q.natAbs ≤ 193710244
  · rw [if_pos hfits, if_neg (by omega), Trit.toInt]
  · rw [if_neg hfits, if_pos (by omega), signTrit_toInt]

/-- The state after a divide by a divisor other than 0 (R144). -/
def State.divided (s : State) (a : Reg) (d : Int) (dst : Reg) : State :=
  ((s.put dst (divMod s.params (dividend a s) d).1).put .u (divMod s.params (dividend a s) d).2).divFlags
    (divMod s.params (dividend a s) d).1

theorem divideTo_of_ne_zero {d : Int} (hd : d ≠ 0) (a dst : Reg) (s : State) :
    divideTo a d dst s = .next (s.divided a d dst) :=
  if_neg hd

theorem divided_writesOnly (s : State) (a : Reg) (d : Int) (dst : Reg) :
    WritesOnly [dst, .u] [.c, .s] [] [] s (s.divided a d dst) :=
  ((WritesOnly.refl.set (by simp) _).set (by simp) _).setCarrySign _ _

/-- The state after a divide holds the quotient, the remainder and the flags of R144 and R145. -/
theorem quotientInto_divided (s : State) (a dst : Reg) {d : Int} (hd : d ≠ 0) (hword : InTrits 18 d) :
    QuotientInto s (s.divided a d dst) ((s.get .o).val * 3 ^ 18 + (s.get a).val) d dst := by
  have hN : (s.get .o).val * 3 ^ 18 + (s.get a).val = dividend a s := by rw [dividend, pow3_eq_pow]
  obtain ⟨hlo, hhi⟩ := inTrits_divMod_remainder s.params (dividend a s) hd hword
  have hm : (toWord (divMod s.params (dividend a s) d).2).val = (divMod s.params (dividend a s) d).2 := bt_of_range hlo hhi
  rw [hN]
  refine ⟨(divMod s.params (dividend a s) d).1, toWord (divMod s.params (dividend a s) d).1,
    toWord (divMod s.params (dividend a s) d).2, ?exact, ?small, ?truncated, ?wrapped, ?quotient, ?remainder, ?carry, ?sign,
    ?frame⟩
  case exact => rw [hm, divMod_mul_add]
  case small => rw [hm]; exact natAbs_divMod_lt s.params _ hd
  case truncated => exact fun htrunc => divMod_quotient_of_truncate htrunc _ d
  case wrapped => exact wrapOf_ofInt 18 _
  case quotient => exact fun hdst => Wrote.set_of_ne (wrote_set s dst _) hdst _
  case remainder => simp [State.divided]
  case carry => exact divFlags_carry_toInt _ _
  case sign => simp [State.divided]
  case frame => exact (divided_writesOnly s a d dst).keepsAll rfl

/-- Every instruction that runs `divideTo` with another divisor writes what R144 says. -/
theorem quotientInto_of_exec_eq_divideTo {i : Instr} {s : State} {a dst : Reg} {d : Int}
    (hi : exec i s = divideTo a d dst s) (hword : InTrits 18 d) (hd : d ≠ 0) :
    ∃ t, exec i s = .next t ∧ QuotientInto s t ((s.get .o).val * 3 ^ 18 + (s.get a).val) d dst :=
  ⟨s.divided a d dst, hi.trans (divideTo_of_ne_zero hd a dst s), quotientInto_divided s a dst hd hword⟩

/-- Settles O12: each divisor, a word or an immediate, fits a word, so the remainder does. -/
theorem divisionsWriteQuotientAndRemainder : Obligations.DivisionsWriteQuotientAndRemainder := by
  unfold Obligations.DivisionsWriteQuotientAndRemainder
  intro s a b c imm imm9
  refine ⟨⟨raised_of_exec_eq_divideTo rfl, quotientInto_of_exec_eq_divideTo rfl ?div⟩,
    ⟨raised_of_exec_eq_divideTo rfl, quotientInto_of_exec_eq_divideTo rfl ?dvi⟩,
    ⟨raised_of_exec_eq_divideTo rfl, quotientInto_of_exec_eq_divideTo rfl ?pdv⟩⟩
  case div => exact (s.get b).inTrits
  case dvi => exact imm.inTrits.mono (by decide)
  case pdv => exact imm9.inTrits.mono (by decide)

end Sys2Proof.Machine
end

section
/-!
PROOFS for 41_logical.md: the trits of a wrapped number and of a shifted one (R7, R163 to R165), and what compares, shifts,
rotates and the tritwise operations write (R161 to R176).
-/

namespace Sys2Proof

/-! ## Trits of wrapped and shifted numbers (R5, R7, R163) -/

/-- Wrapping to `n` trits keeps the low `n` of them. -/
theorem tritAt_bt {n i : Nat} (v : Int) (hi : i < n) : tritAt (bt n v) i = tritAt v i := by
  have hw : Bt.ofInt n v = ofTrits n (tritAt v) := Bt.ext (by rw [ofTrits_val, tritSum_tritAt, Bt.ofInt_val])
  calc tritAt (bt n v) i = (Bt.ofInt n v).trit i := rfl
    _ = tritAt v i := by rw [hw, trit_ofTrits _ hi]

/-- Wrapping a factor first does not change the wrapped product. -/
theorem bt_bt_mul (n : Nat) (v c : Int) : bt n (bt n v * c) = bt n (v * c) := by
  have hv : v * c = bt n v * c + pow3 n * (shiftOut v n * c) := by
    rw [← mul_assoc, ← add_mul, ← eq_bt_add n v]
  rw [hv, bt_add_mul]

theorem shiftOut_mul_pow (v : Int) (k : Nat) : shiftOut (v * 3 ^ k) k = v := by
  have h0 := half_nonneg k
  exact (bt_unique (x := 0) (by omega) h0 (by rw [pow3_eq_pow]; ring)).2

/-- Multiplying by `3^k` moves every trit up by `k` positions. -/
theorem tritAt_mul_pow_of_le (v : Int) {k i : Nat} (h : k ≤ i) : tritAt (v * 3 ^ k) i = tritAt v (i - k) := by
  obtain ⟨j, rfl⟩ := Nat.exists_eq_add_of_le h
  rw [tritAt, tritAt, ← shiftOut_shiftOut, shiftOut_mul_pow, Nat.add_sub_cancel_left]

/-- Multiplying by `3^k` leaves 0 in the low `k` trits. -/
theorem tritAt_mul_pow_of_lt (v : Int) {k i : Nat} (h : i < k) : tritAt (v * 3 ^ k) i = .zero := by
  obtain ⟨j, rfl⟩ := Nat.exists_eq_add_of_lt h
  have hv : v * 3 ^ (i + j + 1) = v * 3 ^ j * 3 * 3 ^ i := by ring
  rw [hv, tritAt, shiftOut_mul_pow, Trit.ofInt, if_pos (Int.mul_emod_left _ 3)]

/-- A number shifted up by its whole width wraps to 0. -/
theorem bt_mul_pow_of_le (v : Int) {n k : Nat} (h : n ≤ k) : bt n (v * 3 ^ k) = 0 := by
  have h0 := half_nonneg n
  obtain ⟨j, rfl⟩ := Nat.exists_eq_add_of_le h
  exact (bt_unique (k := v * 3 ^ j) (by omega) h0 (by rw [pow3_eq_pow]; ring)).1

/-- Dropping low trits never needs more trits. -/
theorem InTrits.shiftOut {n : Nat} {v : Int} (h : InTrits n v) (k : Nat) : InTrits n (shiftOut v k) :=
  inTrits_shiftOut (h.mono (Nat.le_add_left n k))

/-- Nothing is left of a number of `n` trits without its low `n`. -/
theorem shiftOut_eq_zero_of_le {n k : Nat} {v : Int} (h : InTrits n v) (hk : n ≤ k) : shiftOut v k = 0 := by
  obtain ⟨hlo, hhi⟩ := inTrits_shiftOut (a := k) (b := 0) (h.mono hk)
  exact le_antisymm hhi hlo

/-- Dropping the low `k` trits rounds to the nearest multiple of `3^k` (R165). -/
theorem two_mul_natAbs_sub_shiftOut_lt (v : Int) (k : Nat) : 2 * (v - 3 ^ k * shiftOut v k).natAbs < 3 ^ k := by
  have hsplit := eq_bt_add k v
  have hlo := neg_half_le_bt k v
  have hhi := bt_le_half k v
  have hpow : ((3 ^ k : Nat) : Int) = 2 * half k + 1 := by
    rw [← pow3_eq_half, pow3_eq_pow, Nat.cast_pow, Nat.cast_ofNat]
  have hrest : v - 3 ^ k * shiftOut v k = bt k v := by
    rw [← pow3_eq_pow, sub_eq_iff_eq_add]
    exact hsplit
  rw [hrest]
  omega

/-! ## The order of two numbers by the flags of their difference (R161) -/

/-- The upper trit of an exact result decides its sign, and where that is 0 the lower word does. -/
theorem sign_eq_of_eq_carry_add {e : Int} {c t : Trit} {w : Word} (he : e = c.toInt * 3 ^ 18 + w.val)
    (ht : t.toInt = w.val.sign) : e.sign = (if c = .zero then t else c).toInt := by
  have hlo := w.lo
  have hhi := w.hi
  rw [half_eighteen] at hlo hhi
  subst he
  cases c with
  | neg => exact Int.sign_eq_neg_one_of_neg (by rw [Trit.toInt]; omega)
  | zero => rw [if_pos rfl, ht, Trit.toInt, zero_mul, zero_add]
  | pos => exact Int.sign_eq_one_of_pos (by rw [Trit.toInt]; omega)

end Sys2Proof

namespace Sys2Proof.Machine

/-! ## Compare (R161, R162) -/

/-- Carry and Sign describe the exact difference `e` and give its sign, and nothing else has changed. -/
abbrev Compared (s t : State) (e : Int) : Prop :=
  (∃ w : Word, e = (t.flag .c).toInt * 3 ^ 18 + w.val ∧ (t.flag .s).toInt = w.val.sign) ∧
    e.sign = (if t.flag .c = .zero then t.flag .s else t.flag .c).toInt ∧ KeepsAll s t [] [.c, .s]

/-- A write to `rz` is discarded (R22). -/
theorem put_z (s : State) (v : Int) : s.put .z v = s := rfl

theorem addTo_z (e : Int) (s : State) : addTo .z e s = done (s.arithFlags e) := by
  rw [addTo, put_z]

/-- A compare is a subtraction into `rz` (R161). -/
theorem exec_cmp_eq_sub (a b : Reg) (s : State) : exec (.cmp a b) s = exec (.sub a b .z) s :=
  (addTo_z _ s).symm

theorem exec_cmi_eq_addTo (a : Reg) (imm : Hexad) (s : State) :
    exec (.cmi a imm) s = addTo .z ((s.get a).val - imm.val) s :=
  (addTo_z _ s).symm

/-- A result reduced into `rz` leaves only its flags, and they give its sign. -/
theorem compared_of_sumInto_z {s t : State} {e : Int} (h : SumInto s t e .z) : Compared s t e := by
  obtain ⟨w, hsum, hsign, -, ⟨hregs, hflags, hsys, hworld⟩, hip, hmem⟩ := h
  refine ⟨⟨w, hsum, hsign⟩, sign_eq_of_eq_carry_add hsum hsign, ⟨fun rg _ => ?_, hflags, hsys, hworld⟩, hip, hmem⟩
  by_cases hz : rg = .z
  · rw [hz, State.get_z, State.get_z]
  · exact hregs rg (by simpa using hz)

theorem compared_of_exec_eq_addTo_z {i : Instr} {s : State} {e : Int} (hi : exec i s = addTo .z e s)
    (he : InTrits 19 e) : ∃ t, exec i s = .next t ∧ Compared s t e := by
  obtain ⟨t, hexec, hsum⟩ := sumInto_of_exec_eq_addTo hi he
  exact ⟨t, hexec, compared_of_sumInto_z hsum⟩

/-- Settles O10: a compare is a subtraction into `rz`, and each difference has 19 trits. -/
theorem comparesSetCarryAndSignOnly : Obligations.ComparesSetCarryAndSignOnly := by
  unfold Obligations.ComparesSetCarryAndSignOnly
  intro s a b imm
  have ha := (s.get a).inTrits
  refine ⟨⟨exec_cmp_eq_sub a b s, compared_of_exec_eq_addTo_z (exec_cmp_eq_sub a b s) ?cmp⟩,
    compared_of_exec_eq_addTo_z (exec_cmi_eq_addTo a imm s) ?cmi⟩
  case cmp => exact ha.sub (s.get b).inTrits
  case cmi => exact ha.sub (imm.inTrits.mono (by decide))

/-! ## One register written, with Carry or without -/

/-- Every instruction that sets one register writes it and nothing else. -/
theorem written_of_exec_eq_set {i : Instr} {s : State} {dst : Reg} {v : Word} {P : Word → Prop}
    (hi : exec i s = done (s.set dst v)) (hv : P v) :
    ∃ (t : State) (w : Word), exec i s = .next t ∧ Wrote t dst w ∧ P w ∧ KeepsAll s t [dst] [] :=
  ⟨s.set dst v, v, hi, wrote_set s dst v, hv, (set_writesOnly rfl).keepsAll rfl⟩

/-- A rotate by a count that is not negative sets the register to the rotated word (R166, R167). -/
theorem rotateOnly_of_count {f : Word → Nat → Word} {a : Reg} {imm : Hexad} {k : Nat} (hk : imm.val = k) (s : State) :
    rotateOnly f a imm s = done (s.set a (f (s.get a) k)) := by
  rw [rotateOnly, if_neg (by omega), hk, Int.toNat_natCast]

/-- A register and Carry written together (R163). -/
def State.setWithCarry (s : State) (a : Reg) (x : Word × Trit) : State :=
  (s.set a x.1).setFlag .c x.2

@[simp] theorem State.setWithCarry_carry (s : State) (a : Reg) (x : Word × Trit) : (s.setWithCarry a x).flag .c = x.2 := by
  rw [State.setWithCarry, State.setFlag_flag, if_pos rfl]

theorem setWithCarry_keepsAll (s : State) (a : Reg) (x : Word × Trit) : KeepsAll s (s.setWithCarry a x) [a] [.c] :=
  WritesOnly.keepsAll ((WritesOnly.refl.set (by simp) x.1).setFlag (by simp) x.2) rfl

/-- A shift or rotate through Carry by a count that is not negative (R164, R165, R168, R169). -/
theorem shiftCarry_of_count {f : Nat → Word × Trit → Word × Trit} {a : Reg} {imm : Hexad} {k : Nat} (hk : imm.val = k)
    (s : State) : shiftCarry f a imm s = done (s.setWithCarry a (f k (s.get a, s.flag .c))) := by
  rw [shiftCarry, if_neg (by omega), hk, Int.toNat_natCast, State.setWithCarry]

/-- Every instruction that sets one register and Carry writes these and nothing else. -/
theorem written_of_exec_eq_setWithCarry {i : Instr} {s : State} {a : Reg} {x : Word × Trit} {P : Word → Trit → Prop}
    (hi : exec i s = done (s.setWithCarry a x)) (hx : P x.1 x.2) :
    ∃ (t : State) (w : Word), exec i s = .next t ∧ Wrote t a w ∧ P w (t.flag .c) ∧ KeepsAll s t [a] [.c] :=
  ⟨s.setWithCarry a x, x.1, hi, wrote_set s a x.1, by rwa [State.setWithCarry_carry], setWithCarry_keepsAll s a x⟩

/-! ## Shifts (R163 to R165) -/

/-- The last of `k + 1` repetitions starts from the result of the first `k`. -/
theorem repeatStep_succ {α : Type} (f : α → α) (k : Nat) (x : α) : repeatStep f (k + 1) x = f (repeatStep f k x) := by
  induction k generalizing x with
  | zero => rfl
  | succ k ih => exact ih (f x)

/-- `shl` by `k` multiplies the register by `3^k` and wraps (R164). -/
theorem repeatStep_shlStep_word (k : Nat) (x : Word × Trit) :
    (repeatStep shlStep k x).1 = toWord (x.1.val * 3 ^ k) := by
  induction k with
  | zero => rw [repeatStep, pow_zero, mul_one, toWord_self]
  | succ k ih =>
    apply Bt.ext
    rw [repeatStep_succ, shlStep, ih, toWord_val, toWord_val, toWord_val, mul_comm, bt_bt_mul, mul_assoc, ← pow_succ]

/-- The trit `shl` moves out last is trit 17 of the register shifted by one less. -/
theorem repeatStep_shlStep_carry (k : Nat) (x : Word × Trit) :
    (repeatStep shlStep (k + 1) x).2 = tritAt (x.1.val * 3 ^ k) 17 := by
  rw [repeatStep_succ, shlStep, repeatStep_shlStep_word, Bt.trit, toWord_val, tritAt_bt _ (by decide)]

/-- `shr` by `k` drops the low `k` trits (R165). -/
theorem repeatStep_shrStep_word (k : Nat) (x : Word × Trit) : (repeatStep shrStep k x).1.val = shiftOut x.1.val k := by
  induction k with
  | zero => rw [repeatStep, shiftOut_zero]
  | succ k ih =>
    obtain ⟨hlo, hhi⟩ := x.1.inTrits.shiftOut (k + 1)
    rw [repeatStep_succ, shrStep, ih, toWord_val, shiftOut_shiftOut, bt_of_range hlo hhi]

/-- The trit `shr` moves out last is the one the earlier steps have brought to position 0. -/
theorem repeatStep_shrStep_carry (k : Nat) (x : Word × Trit) : (repeatStep shrStep (k + 1) x).2 = x.1.trit k := by
  rw [repeatStep_succ, shrStep, Bt.trit, tritAt, shiftOut_zero, repeatStep_shrStep_word, Bt.trit, tritAt]

/-- What a shift leaves in the register and Carry, by its count: nothing moved, between 1 and 18, and from 19 on. -/
abbrev ShiftedBy (k : Nat) (x : Word × Trit) (word : Word → Prop) (carry : Trit) (w : Word) (c : Trit) : Prop :=
  (k = 0 → w = x.1 ∧ c = x.2) ∧ (1 ≤ k ∧ k ≤ 18 → word w ∧ c = carry) ∧ (19 ≤ k → w.val = 0 ∧ c = .zero)

/-- `w` is the integer nearest to `v / 3^k` (R165). -/
abbrev NearestTo (v : Int) (k : Nat) (w : Word) : Prop :=
  2 * (v - 3 ^ k * w.val).natAbs < 3 ^ k

theorem shiftedBy_shl (k : Nat) (x : Word × Trit) :
    ShiftedBy k x (WrapOf 18 (x.1.val * 3 ^ k)) (x.1.trit (18 - k)) (repeatStep shlStep k x).1 (repeatStep shlStep k x).2 := by
  cases k with
  | zero => exact ⟨fun _ => ⟨rfl, rfl⟩, by omega, by omega⟩
  | succ k =>
    rw [repeatStep_shlStep_word, repeatStep_shlStep_carry]
    refine ⟨by omega, fun ⟨_, hk⟩ => ⟨wrapOf_ofInt 18 _, ?carry⟩, fun hk => ⟨?empty, ?gone⟩⟩
    case carry => rw [tritAt_mul_pow_of_le _ (by omega), Bt.trit, show 17 - k = 18 - (k + 1) by omega]
    case empty => exact bt_mul_pow_of_le _ (by omega)
    case gone => exact tritAt_mul_pow_of_lt _ (by omega)

theorem shiftedBy_shr (k : Nat) (x : Word × Trit) :
    ShiftedBy k x (NearestTo x.1.val k) (x.1.trit (k - 1)) (repeatStep shrStep k x).1 (repeatStep shrStep k x).2 := by
  cases k with
  | zero => exact ⟨fun _ => ⟨rfl, rfl⟩, by omega, by omega⟩
  | succ k =>
    rw [ShiftedBy, NearestTo, repeatStep_shrStep_word, repeatStep_shrStep_carry]
    refine ⟨by omega, fun _ => ⟨two_mul_natAbs_sub_shiftOut_lt _ _, rfl⟩, fun hk => ⟨?empty, ?gone⟩⟩
    case empty => exact shiftOut_eq_zero_of_le x.1.inTrits (by omega)
    case gone => exact trit_of_le x.1 (by omega)

/-- Every instruction that sets one register and Carry to what a shift leaves writes these and nothing else. -/
theorem shifted_of_exec_eq_setWithCarry {i : Instr} {s : State} {a : Reg} {k : Nat} {x y : Word × Trit} {word : Word → Prop}
    {carry : Trit} (hi : exec i s = done (s.setWithCarry a y)) (hy : ShiftedBy k x word carry y.1 y.2) :
    ∃ (t : State) (w : Word), exec i s = .next t ∧ Wrote t a w ∧ (k = 0 → w = x.1 ∧ t.flag .c = x.2) ∧
      (1 ≤ k ∧ k ≤ 18 → word w ∧ t.flag .c = carry) ∧ (19 ≤ k → w.val = 0 ∧ t.flag .c = .zero) ∧
      KeepsAll s t [a] [.c] := by
  obtain ⟨t, w, hexec, hwrote, ⟨hnone, hsome, hall⟩, hkeeps⟩ := written_of_exec_eq_setWithCarry hi hy
  exact ⟨t, w, hexec, hwrote, hnone, hsome, hall, hkeeps⟩

theorem exec_shl (a : Reg) {imm : Hexad} {k : Nat} (hk : imm.val = k) (s : State) :
    exec (.shl a imm) s = done (s.setWithCarry a (repeatStep shlStep k (s.get a, s.flag .c))) :=
  shiftCarry_of_count hk s

theorem exec_shr (a : Reg) {imm : Hexad} {k : Nat} (hk : imm.val = k) (s : State) :
    exec (.shr a imm) s = done (s.setWithCarry a (repeatStep shrStep k (s.get a, s.flag .c))) :=
  shiftCarry_of_count hk s

/-- Settles O13: the repeated one-trit steps of `shl` and `shr` have closed forms, read off at each count. -/
theorem shiftsThroughCarry : Obligations.ShiftsThroughCarry := by
  unfold Obligations.ShiftsThroughCarry
  intro s a imm k hk
  exact ⟨shifted_of_exec_eq_setWithCarry (exec_shl a hk s) (shiftedBy_shl k (s.get a, s.flag .c)),
    shifted_of_exec_eq_setWithCarry (exec_shr a hk s) (shiftedBy_shr k (s.get a, s.flag .c))⟩

/-! ## Rotates (R166 to R169) -/

theorem trit_rolWord (w : Word) (k : Nat) {i : Nat} (hi : i < 18) : (rolWord w k).trit ((i + k) % 18) = w.trit i := by
  have hback : ((i + k) % 18 + 18 - k % 18) % 18 = i := by omega
  rw [rolWord, trit_ofTrits _ (by omega), hback]

theorem trit_rorWord (w : Word) (k : Nat) {i : Nat} (hi : i < 18) : (rorWord w k).trit i = w.trit ((i + k) % 18) := by
  rw [rorWord, trit_ofTrits _ hi]

/-- The ring of a word and a Carry built from 19 trits holds those trits (R168). -/
theorem ringTrit_ofTrits (p : Nat → Trit) {i : Nat} (hi : i < 19) : ringTrit (ofTrits 18 p) (p 18) i = p i := by
  by_cases htop : i = 18
  · rw [ringTrit, if_pos htop, htop]
  · rw [ringTrit, if_neg htop, trit_ofTrits p (by omega)]

/-- Each trit of the ring `x` is `k` positions higher in the ring of `w` and `c` (R168). -/
abbrev RingMovedUp (k : Nat) (x : Word × Trit) (w : Word) (c : Trit) : Prop :=
  ∀ i < 19, ringTrit w c ((i + k) % 19) = ringTrit x.1 x.2 i

/-- Each trit of the ring `x` is `k` positions lower in the ring of `w` and `c` (R169). -/
abbrev RingMovedDown (k : Nat) (x : Word × Trit) (w : Word) (c : Trit) : Prop :=
  ∀ i < 19, ringTrit w c i = ringTrit x.1 x.2 ((i + k) % 19)

theorem ringMovedUp_rclRing (k : Nat) (x : Word × Trit) : RingMovedUp k x (rclRing x k).1 (rclRing x k).2 := by
  intro i hi
  have hback : ((i + k) % 19 + 19 - k % 19) % 19 = i := by omega
  rw [rclRing, ringTrit_ofTrits _ (by omega), hback, ring]

theorem ringMovedDown_rcrRing (k : Nat) (x : Word × Trit) : RingMovedDown k x (rcrRing x k).1 (rcrRing x k).2 := by
  intro i hi
  rw [rcrRing, ringTrit_ofTrits _ hi, ring]

theorem exec_rcl (a : Reg) {imm : Hexad} {k : Nat} (hk : imm.val = k) (s : State) :
    exec (.rcl a imm) s = done (s.setWithCarry a (rclRing (s.get a, s.flag .c) k)) :=
  shiftCarry_of_count (f := fun k x => rclRing x k) hk s

theorem exec_rcr (a : Reg) {imm : Hexad} {k : Nat} (hk : imm.val = k) (s : State) :
    exec (.rcr a imm) s = done (s.setWithCarry a (rcrRing (s.get a, s.flag .c) k)) :=
  shiftCarry_of_count (f := fun k x => rcrRing x k) hk s

/-- Settles O14: each rotate builds its word, or its ring, from the old trits, and turning back is the same modulo the
length. -/
theorem rotations : Obligations.Rotations := by
  unfold Obligations.Rotations
  intro s a imm k hk
  refine ⟨written_of_exec_eq_set (rotateOnly_of_count hk s) ?rol, written_of_exec_eq_set (rotateOnly_of_count hk s) ?ror,
    written_of_exec_eq_setWithCarry (exec_rcl a hk s) (ringMovedUp_rclRing k (s.get a, s.flag .c)),
    written_of_exec_eq_setWithCarry (exec_rcr a hk s) (ringMovedDown_rcrRing k (s.get a, s.flag .c))⟩
  case rol => exact fun i hi => trit_rolWord _ k hi
  case ror => exact fun i hi => trit_rorWord _ k hi

/-! ## Tritwise operations (R170 to R176) -/

@[simp] theorem trit_tritwise1 (f : Trit → Trit) (w : Word) {i : Nat} (hi : i < 18) :
    (tritwise1 f w).trit i = f (w.trit i) :=
  trit_ofTrits _ hi

@[simp] theorem trit_tritwise2 (f : Trit → Trit → Trit) (u w : Word) {i : Nat} (hi : i < 18) :
    (tritwise2 f u w).trit i = f (u.trit i) (w.trit i) :=
  trit_ofTrits _ hi

theorem toInt_tritSti (x : Trit) : (tritSti x).toInt = -x.toInt := by
  cases x <;> rfl

theorem tritPti_eq (x : Trit) : tritPti x = if x = .pos then .neg else .pos := by
  cases x <;> rfl

theorem tritNti_eq (x : Trit) : tritNti x = if x = .neg then .pos else .neg := by
  cases x <;> rfl

theorem toInt_tritMin (x y : Trit) : (tritMin x y).toInt = min x.toInt y.toInt := by
  cases x <;> cases y <;> rfl

theorem toInt_tritMax (x y : Trit) : (tritMax x y).toInt = max x.toInt y.toInt := by
  cases x <;> cases y <;> rfl

theorem toInt_tritTeq (x y : Trit) : (tritTeq x y).toInt = if x = y then 1 else -1 := by
  rw [tritTeq, apply_ite Trit.toInt, Trit.toInt, Trit.toInt]

theorem toInt_tritTem (x y : Trit) : (tritTem x y).toInt = x.toInt * y.toInt := by
  cases x <;> cases y <;> rfl

/-- Inverting every trit negates the number (R170). -/
theorem tritwise1_tritSti_val (w : Word) : (tritwise1 tritSti w).val = -w.val := by
  have htrits : ∀ i, i < 18 → tritSti (w.trit i) = tritAt (-w.val) i := fun i _ =>
    Trit.toInt_inj (by rw [toInt_tritSti, toInt_tritAt_neg, Bt.trit])
  rw [tritwise1, ofTrits_val, tritSum_congr htrits, tritSum_tritAt, bt_neg, bt_val]

/-- Settles O17: `sti` negates each trit and so the number; `pti` and `nti` act on each trit by their tables. -/
theorem inversions : Obligations.Inversions := by
  unfold Obligations.Inversions
  intro s a
  refine ⟨⟨spells_of_encode_eq rfl, written_of_exec_eq_set rfl ?sti⟩,
    ⟨spells_of_encode_eq rfl, written_of_exec_eq_set rfl ?pti⟩,
    ⟨spells_of_encode_eq rfl, written_of_exec_eq_set rfl ?nti⟩⟩
  case sti => exact tritwise1_tritSti_val _
  case pti => exact fun i hi => by rw [trit_tritwise1 _ _ hi, tritPti_eq]
  case nti => exact fun i hi => by rw [trit_tritwise1 _ _ hi, tritNti_eq]

/-- Settles O18: each operation acts on each trit by its table, on the two source words read before the write. -/
theorem tritwiseOperations : Obligations.TritwiseOperations := by
  unfold Obligations.TritwiseOperations
  intro s a b c
  refine ⟨⟨spells_of_encode_eq rfl, written_of_exec_eq_set rfl ?min⟩,
    ⟨spells_of_encode_eq rfl, written_of_exec_eq_set rfl ?max⟩,
    ⟨spells_of_encode_eq rfl, written_of_exec_eq_set rfl ?teq⟩,
    ⟨spells_of_encode_eq rfl, written_of_exec_eq_set rfl ?tem⟩⟩
  case min => exact fun i hi => by rw [trit_tritwise2 _ _ _ hi, toInt_tritMin]
  case max => exact fun i hi => by rw [trit_tritwise2 _ _ _ hi, toInt_tritMax]
  case teq => exact fun i hi => by rw [trit_tritwise2 _ _ _ hi, toInt_tritTeq]
  case tem => exact fun i hi => by rw [trit_tritwise2 _ _ _ hi, toInt_tritTem]

end Sys2Proof.Machine
end

section
/-!
PROOFS for 42_memory_ops.md: the address a memory instruction forms (R190, R206, R229), what loads, stores, moves and sets
leave (R191 to R222), and the stack (R228, R229), a push undone by a pop and a call by a return.
-/

namespace Sys2Proof

/-! ## Words and addresses (R5, R8) -/

/-- An integer of no more than 18 trits is the value of the word it becomes (R6). -/
theorem toWord_val_of_inTrits {v : Int} (h : InTrits 18 v) : (toWord v).val = v := by
  obtain ⟨hlo, hhi⟩ := h
  exact bt_of_range hlo hhi

/-- The start of a word is the start of the word that contains it (R8). -/
theorem align_of_aligned {a : Addr} (h : Machine.Aligned a) : align a.val = a := by
  have htrit : tritAt a.val 0 = .neg := h
  apply Bt.ext
  rw [align_val, bt_val, htrit, Trit.toInt]
  omega

/-- A word moved down by 3 and up again is the word it was, at the ends of the range too (R5). -/
theorem toWord_sub_add_three (w : Word) : toWord ((toWord (w.val - 3)).val + 3) = w := by
  have hwrap := eq_bt_add 18 (w.val - 3)
  have hsum : bt 18 (w.val - 3) + 3 = w.val + pow3 18 * -shiftOut (w.val - 3) 18 := by
    rw [mul_neg]
    omega
  apply Bt.ext
  rw [toWord_val, toWord_val, hsum, bt_add_mul, bt_val]

end Sys2Proof

namespace Sys2Proof.Machine

/-! ## The address of an access (R190, R206, R229) -/

theorem effectiveOf_ea (s : State) (v : Int) : EffectiveOf s v (s.ea v) :=
  wrapOf_ofInt 12 _

theorem indexedOf_na (s : State) (disp : Hexad) : IndexedOf s disp.val (s.na disp) :=
  wrapOf_ofInt 12 _

theorem popAddr_of_before {s : State} (h : s.params.popOrder = .before) :
    s.popAddr = Bt.ofInt 12 ((s.get .s).val + 3) := by
  rw [State.popAddr, h]

theorem popAddr_of_after {s : State} (h : s.params.popOrder = .after) : s.popAddr = s.pushAddr := by
  rw [State.popAddr, h, State.pushAddr]

/-- A pop reads where `POP_ORDER` says. -/
theorem popFrom_popAddr (s : State) : PopFrom s s.popAddr := by
  cases horder : s.params.popOrder with
  | before =>
    rw [PopFrom, if_pos horder, popAddr_of_before horder]
    exact wrapOf_ofInt 12 _
  | after =>
    rw [PopFrom, if_neg (by simp [horder]), popAddr_of_after horder]
    exact wrapOf_ofInt 12 _

/-! ## Loads (R193 to R204, R207) -/

/-- Every instruction that sets one register to a known word leaves it there and changes nothing else. -/
theorem wrote_of_exec_eq_set {i : Instr} {s : State} {dst : Reg} {v : Word} (hi : exec i s = done (s.set dst v)) :
    ∃ t, exec i s = .next t ∧ Wrote t dst v ∧ KeepsAll s t [dst] [] :=
  ⟨s.set dst v, hi, wrote_set s dst v, (set_writesOnly rfl).keepsAll rfl⟩

/-- Settles O19: each of the two sets its destination to the word read at its effective address. -/
theorem wordLoads : Obligations.WordLoads := by
  unfold Obligations.WordLoads
  intro s a b imm
  exact ⟨⟨spells_of_encode_eq rfl, effectiveOf_ea s imm.val, wrote_of_exec_eq_set rfl⟩,
    ⟨spells_of_encode_eq rfl, effectiveOf_ea s (s.get a).val, wrote_of_exec_eq_set rfl⟩⟩

/-- Every instruction that runs `putHexad` replaces one hexad of its destination and keeps the other two. -/
theorem putHexad_of_exec_eq_putHexad {i : Instr} {s : State} {dst : Reg} {p : HexPart} {h : Hexad}
    (hi : exec i s = putHexad dst p h s) : ∃ t, exec i s = .next t ∧ PutHexad s t dst p h := by
  obtain ⟨t, hexec, hwrote, hkeeps⟩ := wrote_of_exec_eq_set hi
  refine ⟨t, hexec, (s.get dst).setHexad p h, ?replaced, fun q hq => ?kept, hwrote, hkeeps⟩
  case replaced => rw [hexad_setHexad, if_pos rfl]
  case kept => rw [hexad_setHexad, if_neg hq]

/-- Settles O20: each of the six puts the hexad read at its effective address into one part of its destination. -/
theorem hexadLoads : Obligations.HexadLoads := by
  unfold Obligations.HexadLoads
  intro s a b imm
  exact ⟨effectiveOf_ea s imm.val, effectiveOf_ea s (s.get a).val,
    ⟨spells_of_encode_eq rfl, putHexad_of_exec_eq_putHexad rfl⟩, ⟨spells_of_encode_eq rfl, putHexad_of_exec_eq_putHexad rfl⟩,
    ⟨spells_of_encode_eq rfl, putHexad_of_exec_eq_putHexad rfl⟩, ⟨spells_of_encode_eq rfl, putHexad_of_exec_eq_putHexad rfl⟩,
    ⟨spells_of_encode_eq rfl, putHexad_of_exec_eq_putHexad rfl⟩, ⟨spells_of_encode_eq rfl, putHexad_of_exec_eq_putHexad rfl⟩⟩

/-- Settles O21: an immediate and an address fit a word, so the integer loaded is the operand's. -/
theorem immediateLoads : Obligations.ImmediateLoads := by
  unfold Obligations.ImmediateLoads
  intro s a imm addr
  refine ⟨⟨spells_of_encode_eq rfl, written_of_exec_eq_set rfl ?ldi⟩,
    ⟨spells_of_encode_eq rfl, putHexad_of_exec_eq_putHexad rfl⟩, ⟨spells_of_encode_eq rfl, putHexad_of_exec_eq_putHexad rfl⟩,
    ⟨spells_of_encode_eq rfl, putHexad_of_exec_eq_putHexad rfl⟩, ⟨spells_of_encode_eq rfl, ?lad⟩⟩
  case ldi => exact toWord_val_of_inTrits (imm.inTrits.mono (by decide))
  case lad =>
    obtain ⟨t, hexec, ⟨hread, -⟩, hkeeps⟩ := wrote_of_exec_eq_set (i := .lad addr) (s := s) rfl
    exact ⟨t, hexec, by rw [hread (by decide), toWord_addr_val], hkeeps⟩

/-! ## Stores (R208 to R215) -/

/-- An instruction that logs nothing and takes no lined-up answer changes beside IP and memory only its registers and flags. -/
theorem WritesOnly.keeps {regs : List Reg} {flags : List Flag} {addrs : List Addr} {s t : State}
    (h : WritesOnly regs flags addrs [] s t) (hanswers : t.ioAnswers = s.ioAnswers) : Keeps s t regs flags :=
  ⟨h.regs, h.flags, h.sys, h.ioLog.trans (List.append_nil _), hanswers, h.pendingInts, h.params⟩

/-- Every instruction that runs `storeWord` leaves the word at its address and changes nothing else. -/
theorem storedWord_of_exec_eq_storeWord {i : Instr} {s : State} {src : Reg} {a : Addr} (hi : exec i s = storeWord src a s) :
    ∃ t, exec i s = .next t ∧ StoredWord s t a (s.get src) ∧ Keeps s t [] [] ∧ t.ip = s.ip :=
  ⟨s.writeWord a (s.get src), hi, storedWord_writeWord s a _, (storeWord_writesOnly rfl).keeps rfl, rfl⟩

/-- Every instruction that runs `storeHexad` leaves the hexad at its address and changes nothing else. -/
theorem storedHexad_of_exec_eq_storeHexad {i : Instr} {s : State} {src : Reg} {p : HexPart} {a : Addr}
    (hi : exec i s = storeHexad src p a s) :
    ∃ t, exec i s = .next t ∧ StoredHexad s t a ((s.get src).hexad p) ∧ Keeps s t [] [] ∧ t.ip = s.ip :=
  ⟨s.writeHexad a ((s.get src).hexad p), hi, storedHexad_writeHexad s a _, (storeHexad_writesOnly rfl).keeps rfl, rfl⟩

/-- Settles O22: each of the two stores its source's word at its effective address. -/
theorem wordStores : Obligations.WordStores := by
  unfold Obligations.WordStores
  intro s a b imm
  exact ⟨⟨spells_of_encode_eq rfl, effectiveOf_ea s imm.val, storedWord_of_exec_eq_storeWord rfl⟩,
    ⟨spells_of_encode_eq rfl, effectiveOf_ea s (s.get b).val, storedWord_of_exec_eq_storeWord rfl⟩⟩

/-- Settles O23: each of the six stores one hexad of its source at its effective address. -/
theorem hexadStores : Obligations.HexadStores := by
  unfold Obligations.HexadStores
  intro s a b imm
  exact ⟨effectiveOf_ea s imm.val, effectiveOf_ea s (s.get b).val,
    ⟨spells_of_encode_eq rfl, storedHexad_of_exec_eq_storeHexad rfl⟩,
    ⟨spells_of_encode_eq rfl, storedHexad_of_exec_eq_storeHexad rfl⟩,
    ⟨spells_of_encode_eq rfl, storedHexad_of_exec_eq_storeHexad rfl⟩,
    ⟨spells_of_encode_eq rfl, storedHexad_of_exec_eq_storeHexad rfl⟩,
    ⟨spells_of_encode_eq rfl, storedHexad_of_exec_eq_storeHexad rfl⟩,
    ⟨spells_of_encode_eq rfl, storedHexad_of_exec_eq_storeHexad rfl⟩⟩

/-! ## The indexed load and store (R205, R206, R216) -/

/-- The index moves by the Direction flag (R206). -/
theorem wrapOf_stepIndex (s : State) : WrapOf 18 ((s.get .n).val + (s.flag .d).toInt) (s.stepIndex.get .n) := by
  rw [State.stepIndex_get, if_pos (by decide)]
  exact wrapOf_ofInt 18 _

theorem exec_ldn (a : Reg) (imm : Hexad) (s : State) :
    exec (.ldn a imm) s = .next (s.set a (s.readWord (s.na imm))).stepIndex := rfl

theorem exec_stn (a : Reg) (imm : Hexad) (s : State) :
    exec (.stn a imm) s = .next (s.writeWord (s.na imm) (s.get a)).stepIndex := rfl

/-- Settles O24: the index moves after the access, so `ldn` into `rn` moves the word loaded and `stn` of `rn` stores the old
index. -/
theorem indexedAccesses : Obligations.IndexedAccesses := by
  unfold Obligations.IndexedAccesses
  intro s a imm
  have hmoved := wrapOf_stepIndex (s.set a (s.readWord (s.na imm)))
  rw [State.set_get, State.set_flag] at hmoved
  refine ⟨indexedOf_na s imm, ⟨_, exec_ldn a imm s, fun hne => ⟨?loaded, ?index⟩, fun heq => ?loadedIndex, ?ldnFrame⟩,
    ⟨_, exec_stn a imm s, ?stored, wrapOf_stepIndex (s.writeWord (s.na imm) (s.get a)), ?stnFrame, rfl⟩⟩
  case loaded => exact (wrote_set s a _).set_of_ne hne _
  case index => rwa [if_neg (fun hand => hne hand.1.symm)] at hmoved
  case loadedIndex => rwa [if_pos ⟨heq.symm, by decide⟩] at hmoved
  case ldnFrame => exact ((WritesOnly.refl.set (by simp) _).set (by simp) _).keepsAll rfl
  case stored => exact storedWord_writeWord s (s.na imm) (s.get a)
  case stnFrame => exact ((WritesOnly.refl.writeWord _).set (by simp) _).keeps rfl

/-! ## Moves and sets (R218 to R222) -/

theorem exec_xch (a b : Reg) (s : State) : exec (.xch a b) s = .next ((s.set a (s.get b)).set b (s.get a)) := rfl

/-- The first of two register writes stays, unless the second writes the same register another word. -/
theorem wrote_set_set (s : State) {a b : Reg} {v w : Word} (h : a = b → v = w) : Wrote ((s.set a v).set b w) a v := by
  by_cases hab : a = b
  · subst hab
    obtain rfl := h rfl
    exact wrote_set _ a v
  · exact (wrote_set s a v).set_of_ne hab w

/-- Settles O25: `xch` of a register with itself writes the one word twice; the constants of `srz`, `srp` and `srn` fit a
word. -/
theorem movesAndSets : Obligations.MovesAndSets := by
  unfold Obligations.MovesAndSets
  intro s a b
  refine ⟨⟨spells_of_encode_eq rfl, wrote_of_exec_eq_set rfl⟩,
    ⟨spells_of_encode_eq rfl, _, exec_xch a b s, wrote_set _ b _, wrote_set_set s ?same, ?frame⟩,
    ⟨spells_of_encode_eq rfl, written_of_exec_eq_set rfl ?srz⟩, ⟨spells_of_encode_eq rfl, written_of_exec_eq_set rfl ?srp⟩,
    ⟨spells_of_encode_eq rfl, written_of_exec_eq_set rfl ?srn⟩⟩
  case same => exact fun hab => by rw [hab]
  case frame => exact ((WritesOnly.refl.set (by simp) _).set (by simp) _).keepsAll rfl
  case srz => decide
  case srp => decide
  case srn => decide

/-! ## The stack (R228, R229) -/

theorem exec_psh (a : Reg) (s : State) : exec (.psh a) s = .next (s.push (s.get a)) := rfl

theorem exec_pop (a : Reg) (s : State) : exec (.pop a) s = .next (s.popMove.set a s.popped) := rfl

theorem exec_ret (s : State) : exec .ret s = .next (s.popMove.jump s.popped.val) := rfl

/-- A push does what R228 says. -/
theorem pushed_push (s : State) (v : Word) : Pushed s (s.push v) v := by
  refine ⟨wrapOf_ofInt 12 _, storedWord_writeWord s s.pushAddr v, ?moved, (WritesOnly.push v).keeps rfl⟩
  rw [State.push_get, if_pos (by decide)]
  exact wrapOf_ofInt 18 _

/-- Settles O26: the word pushed is read before `rs` moves. -/
theorem pushStoresThenMovesDown : Obligations.PushStoresThenMovesDown := by
  unfold Obligations.PushStoresThenMovesDown
  exact fun s a => ⟨spells_of_encode_eq rfl, _, exec_psh a s, pushed_push s (s.get a), rfl⟩

/-- A pop moves `rs` up by 3 (R229). -/
theorem wrapOf_popMove (s : State) : WrapOf 18 ((s.get .s).val + 3) (s.popMove.get .s) := by
  rw [State.popMove_get, if_pos (by decide)]
  exact wrapOf_ofInt 18 _

/-- Settles O27: the popped word is written after `rs` has moved, also to `rs`. -/
theorem popMovesUpThenReads : Obligations.PopMovesUpThenReads := by
  unfold Obligations.PopMovesUpThenReads
  intro s a
  have hwrote : Wrote (s.popMove.set a s.popped) a s.popped := wrote_set _ a _
  refine ⟨_, s.popAddr, exec_pop a s, popFrom_popAddr s, fun hne => ⟨hwrote, ?moved⟩, fun heq _ => ?popped, ?frame⟩
  case moved =>
    rw [State.set_get, if_neg (fun hand => hne hand.1.symm)]
    exact wrapOf_popMove s
  case popped =>
    subst heq
    obtain ⟨hread, -⟩ := hwrote
    exact hread (by decide)
  case frame => exact ((WritesOnly.refl.set (by simp) _).set (by simp) _).keepsAll rfl

/-! ## A pop undoes a push (R228, R229, R265) -/

/-- A word read back where it was pushed. -/
theorem push_readWord_pushAddr (s : State) (v : Word) : (s.push v).readWord s.pushAddr = v :=
  s.writeWord_readWord_same s.pushAddr v

theorem push_get_s (s : State) (v : Word) : (s.push v).get .s = toWord ((s.get .s).val - 3) := by
  rw [State.push_get, if_pos (by decide)]

/-- Under the default `POP_ORDER` a pop after a push reads where the push wrote: `rs` comes back to its old value before its
low 12 trits are taken. -/
theorem push_popAddr {s : State} (h : s.params.popOrder = .before) (v : Word) : (s.push v).popAddr = s.pushAddr := by
  have hparams : (s.push v).params.popOrder = .before := h
  apply Bt.ext
  calc (s.push v).popAddr.val
      = bt 12 ((toWord ((s.get .s).val - 3)).val + 3) := by rw [popAddr_of_before hparams, push_get_s, Bt.ofInt_val]
    _ = bt 12 (toWord ((toWord ((s.get .s).val - 3)).val + 3)).val := (bt_bt_of_le (by decide) _).symm
    _ = s.pushAddr.val := by rw [toWord_sub_add_three, State.pushAddr, Bt.ofInt_val]

theorem push_popped {s : State} (h : s.params.popOrder = .before) (v : Word) : (s.push v).popped = v := by
  rw [State.popped, push_popAddr h, push_readWord_pushAddr]

/-- A push and the move of a pop leave every register as it was. -/
theorem push_popMove_get (s : State) (v : Word) (rg : Reg) : (s.push v).popMove.get rg = s.get rg := by
  rw [State.popMove_get, push_get_s, State.push_get, toWord_sub_add_three]
  by_cases hrg : rg = .s ∧ rg ≠ .z
  · obtain ⟨rfl, -⟩ := hrg
    rw [if_pos (by decide)]
  · rw [if_neg hrg, if_neg hrg]

/-- A push then a pop copies one register to another. -/
theorem pop_after_psh {s : State} (horder : s.params.popOrder = .before) (a : Reg) {b : Reg} (hb : b ≠ .s) :
    ∃ t u, exec (.psh a) s = .next t ∧ exec (.pop b) t = .next u ∧ Wrote u b (s.get a) ∧ u.get .s = s.get .s ∧
      OnlyRegs s u [b] := by
  have hregs : OnlyRegs s ((s.push (s.get a)).popMove.set b (s.push (s.get a)).popped) [b] := fun rg hrg => by
    have hne : rg ≠ b := by simpa using hrg
    rw [State.set_get, if_neg (fun hand => hne hand.1), push_popMove_get]
  refine ⟨_, _, exec_psh a s, exec_pop b _, ?copied, hregs .s (by simpa using hb.symm), hregs⟩
  rw [push_popped horder]
  exact wrote_set _ b _

/-- Every call resumes at its return: the word pushed is IP, which is the start of a word. -/
theorem ret_after_callTo {i : Instr} {s : State} {target : Int} (horder : s.params.popOrder = .before) (hip : Aligned s.ip)
    (hi : exec i s = callTo target s) :
    ∃ t u, exec i s = .next t ∧ exec .ret t = .next u ∧ u.ip = s.ip ∧ OnlyRegs s u [] := by
  refine ⟨(s.push (toWord s.ip.val)).jump target, _, hi, exec_ret _, ?resumed, fun rg _ => push_popMove_get s _ rg⟩
  have hpopped : ((s.push (toWord s.ip.val)).jump target).popped = toWord s.ip.val := push_popped horder _
  rw [State.jump_ip, hpopped, toWord_addr_val, align_of_aligned hip]

/-- Settles O28: after a push the pop reads the word pushed, and `rs` has moved down and up by 3. -/
theorem stackRoundTrips : Obligations.StackRoundTrips := by
  unfold Obligations.StackRoundTrips
  intro s horder
  refine ⟨fun a b hb => pop_after_psh horder a hb, fun i hip hcall => ?resume⟩
  obtain ⟨addr, rfl⟩ | ⟨addr, rfl⟩ | ⟨a, rfl⟩ := hcall <;> exact ret_after_callTo horder hip rfl

end Sys2Proof.Machine
end

section
/-!
PROOFS for 43_branch.md: where a branch, a skip, a call and a return leave IP (R240 to R259), and the flag-setting instructions
(R260 to R262). Every control transfer ends in the alignment of its target, so the frame of what came before it stays.
-/

namespace Sys2Proof.Machine

/-! ## Branches (R240, R243 to R247) -/

/-- IP is not among what `Keeps` speaks of: a control transfer keeps what the writes before it kept. -/
theorem keeps_jump {s u : State} {regs : List Reg} {flags : List Flag} (h : Keeps s u regs flags) (v : Int) :
    Keeps s (u.jump v) regs flags :=
  h

theorem jumpedTo_jump (s : State) (v : Int) : JumpedTo s (s.jump v) v :=
  ⟨alignOf_align v, keeps_jump ((WritesOnly.refl (addrs := [])).keeps rfl) v, fun _ => rfl⟩

/-- Every instruction that only assigns IP has the aligned target as its whole effect. -/
theorem jumpedTo_of_exec_eq_jump {i : Instr} {s : State} {v : Int} (hi : exec i s = done (s.jump v)) :
    ∃ t, exec i s = .next t ∧ JumpedTo s t v :=
  ⟨s.jump v, hi, jumpedTo_jump s v⟩

/-- Settles O29: each of the five assigns IP its target, and `brs` and `brl` add to the following instruction's address. -/
theorem unconditionalBranches : Obligations.UnconditionalBranches := by
  unfold Obligations.UnconditionalBranches
  intro s a imm addr
  exact ⟨⟨spells_of_encode_eq rfl, jumpedTo_of_exec_eq_jump rfl⟩, ⟨spells_of_encode_eq rfl, jumpedTo_of_exec_eq_jump rfl⟩,
    ⟨spells_of_encode_eq rfl, jumpedTo_of_exec_eq_jump rfl⟩, ⟨spells_of_encode_eq rfl, jumpedTo_of_exec_eq_jump rfl⟩,
    ⟨spells_of_encode_eq rfl, jumpedTo_of_exec_eq_jump rfl⟩⟩

/-! ## Conditional branches (R242, R249 to R251) -/

/-- Every instruction that runs `branchIf` branches when the flag has the tested value and else does nothing. -/
theorem branched_of_exec_eq_branchIf {i : Instr} {s : State} {f : Flag} {v : Trit} {d : Addr}
    (hi : exec i s = branchIf f v d s) :
    (s.flag f = v → ∃ t, exec i s = .next t ∧ JumpedTo s t (s.ip.val + d.val)) ∧ (s.flag f ≠ v → exec i s = .next s) := by
  refine ⟨fun heq => jumpedTo_of_exec_eq_jump ?taken, fun hne => ?passed⟩
  case taken => rw [hi, branchIf, if_pos heq, State.branch]
  case passed => rw [hi, branchIf, if_neg hne, done]

/-- Settles O30: the three test for the three values of the flag. -/
theorem conditionalBranches : Obligations.ConditionalBranches := by
  unfold Obligations.ConditionalBranches
  exact fun s f addr =>
    ⟨branched_of_exec_eq_branchIf rfl, branched_of_exec_eq_branchIf rfl, branched_of_exec_eq_branchIf rfl⟩

/-! ## Conditional skips (R252 to R254) -/

/-- A skip moves IP past one word and changes nothing else. -/
theorem skipped_advance (s : State) : WrapOf 12 (s.ip.val + 3) s.advance.ip ∧ Keeps s s.advance [] [] ∧ SameMem s s.advance :=
  ⟨wrapOf_plus s.ip 3, (WritesOnly.refl (addrs := []) (s := s)).keeps rfl, fun _ => rfl⟩

/-- Every instruction that runs `skipIf` skips when the flag has the tested value and else does nothing. -/
theorem skipped_of_exec_eq_skipIf {i : Instr} {s : State} {f : Flag} {v : Trit} (hi : exec i s = skipIf f v s) :
    (s.flag f = v → ∃ t, exec i s = .next t ∧ WrapOf 12 (s.ip.val + 3) t.ip ∧ Keeps s t [] [] ∧ SameMem s t) ∧
      (s.flag f ≠ v → exec i s = .next s) := by
  refine ⟨fun heq => ⟨s.advance, ?taken, skipped_advance s⟩, fun hne => ?passed⟩
  case taken => rw [hi, skipIf, if_pos heq, done]
  case passed => rw [hi, skipIf, if_neg hne, done]

/-- Settles O31: the three test for the three values of the flag. -/
theorem conditionalSkips : Obligations.ConditionalSkips := by
  unfold Obligations.ConditionalSkips
  exact fun s f => ⟨⟨spells_of_encode_eq rfl, skipped_of_exec_eq_skipIf rfl⟩,
    ⟨spells_of_encode_eq rfl, skipped_of_exec_eq_skipIf rfl⟩, ⟨spells_of_encode_eq rfl, skipped_of_exec_eq_skipIf rfl⟩⟩

/-! ## The three-way branch (R255) -/

/-- The register that holds the displacement (R255). -/
def tbXReg (a b c : Reg) : Trit → Reg
  | .neg => a
  | .zero => b
  | .pos => c

theorem exec_tbX (a b c : Reg) (f : Flag) (s : State) :
    exec (.tbX a b c f) s = done (s.jump (s.ip.val + (s.get (tbXReg a b c (s.flag f))).val)) := by
  change execTbX a b c f s = _
  rw [execTbX]
  cases s.flag f <;> rfl

/-- Settles O32: the branch is relative to the register that the value of the flag chooses. -/
theorem threeWayBranch : Obligations.ThreeWayBranch := by
  unfold Obligations.ThreeWayBranch
  intro s a b c f
  have hjump := jumpedTo_jump s (s.ip.val + (s.get (tbXReg a b c (s.flag f))).val)
  refine ⟨spells_of_encode_eq rfl, _, exec_tbX a b c f s, fun hneg => ?first, fun hzero => ?second, fun hpos => ?third⟩
  case first => rwa [hneg] at hjump ⊢
  case second => rwa [hzero] at hjump ⊢
  case third => rwa [hpos] at hjump ⊢

/-! ## Calls and return (R256 to R259) -/

/-- Every instruction that runs `callTo` pushes IP and then jumps: the frame and the memory are those of the push. -/
theorem pushed_of_exec_eq_callTo {i : Instr} {s : State} {target : Int} (hi : exec i s = callTo target s) :
    ∃ t, exec i s = .next t ∧ Pushed s t (toWord s.ip.val) ∧ AlignOf target t.ip := by
  obtain ⟨haddr, hstored, hmoved, hkeeps⟩ := pushed_push s (toWord s.ip.val)
  exact ⟨(s.push (toWord s.ip.val)).jump target, hi, ⟨haddr, hstored, hmoved, keeps_jump hkeeps target⟩, alignOf_align target⟩

/-- Settles O33: each call computes its target from the state before the push, and IP is the same integer as a word. -/
theorem callsPushAndBranch : Obligations.CallsPushAndBranch := by
  unfold Obligations.CallsPushAndBranch
  exact fun s a addr => ⟨toWord s.ip.val, toWord_addr_val s.ip, pushed_of_exec_eq_callTo rfl, pushed_of_exec_eq_callTo rfl,
    pushed_of_exec_eq_callTo rfl⟩

/-- Settles O34: the move of the pop writes `rs` alone, and the jump to the popped word IP alone. -/
theorem returnPopsAndBranches : Obligations.ReturnPopsAndBranches := by
  unfold Obligations.ReturnPopsAndBranches
  intro s
  have hpop : WritesOnly [.s] [] [] [] s s.popMove := WritesOnly.refl.set (by simp) _
  exact ⟨_, s.popAddr, exec_ret s, popFrom_popAddr s, alignOf_align s.popped.val, wrapOf_popMove s,
    keeps_jump (hpop.keeps rfl) s.popped.val, fun _ => rfl⟩

/-! ## Flag-setting instructions (R260 to R262) -/

/-- Every instruction that sets one flag leaves the value there and changes nothing else, the Protect flag not consulted. -/
theorem flagSet_of_exec_eq_setFlag {i : Instr} {s : State} {f : Flag} {v : Trit} (hi : exec i s = done (s.setFlag f v)) :
    ∃ t, exec i s = .next t ∧ t.flag f = v ∧ KeepsAll s t [] [f] :=
  ⟨s.setFlag f v, hi, by rw [State.setFlag_flag, if_pos rfl], (setFlag_writesOnly rfl).keepsAll rfl⟩

/-- Settles O35: the three write the three values of the flag. -/
theorem flagSetting : Obligations.FlagSetting := by
  unfold Obligations.FlagSetting
  exact fun s f => ⟨flagSet_of_exec_eq_setFlag rfl, flagSet_of_exec_eq_setFlag rfl, flagSet_of_exec_eq_setFlag rfl⟩

end Sys2Proof.Machine
end

section
/-!
PROOFS for 44_conversion.md: the bits of an integer and the word that spells them (R281), the number a binary-coded word
spells (R282), and what `bin`, `tri`, `fdr` and `rdr` write (R283 to R287).
-/

namespace Sys2Proof

/-! ## Bits of an integer (R281) -/

/-- What stands above the low `n` bits of an integer has no part in them. -/
theorem bit_add_pow_mul (v k : Int) {i n : Nat} (hi : i < n) : (v + 2 ^ n * k) / 2 ^ i % 2 = v / 2 ^ i % 2 := by
  obtain ⟨j, rfl⟩ := Nat.exists_eq_add_of_lt hi
  have hsplit : v + 2 ^ (i + j + 1) * k = v + 2 ^ i * (2 * (2 ^ j * k)) := by ring
  rw [hsplit, Int.add_mul_ediv_left _ _ (by positivity), Int.add_mul_emod_self_left]

theorem bit_emod_pow (v : Int) {i n : Nat} (hi : i < n) : v % 2 ^ n / 2 ^ i % 2 = v / 2 ^ i % 2 := by
  conv_rhs => rw [← Int.emod_add_mul_ediv v (2 ^ n), bit_add_pow_mul _ _ hi]

/-- The low `n + 1` bits are the low `n` bits and bit `n` above them. -/
theorem emod_two_pow_succ (v : Int) (n : Nat) : v % 2 ^ (n + 1) = v % 2 ^ n + v / 2 ^ n % 2 * 2 ^ n := by
  have hquot : v / 2 ^ n / 2 = v / (2 ^ n * 2) := Int.ediv_ediv_of_nonneg (by positivity)
  rw [pow_succ, Int.emod_def v (2 ^ n * 2), Int.emod_def v (2 ^ n), Int.emod_def (v / 2 ^ n) 2, hquot]
  ring

theorem Trit.toInt_eq_zero_or_one {t : Trit} (h : t ≠ .neg) : t.toInt = 0 ∨ t.toInt = 1 := by
  cases t with
  | neg => exact absurd rfl h
  | zero => exact .inl rfl
  | pos => exact .inr rfl

/-- Trits that add up position by position make numbers that add up (R3). -/
theorem tritSum_add {n : Nat} {f g h : Nat → Trit} (hadd : ∀ i, (f i).toInt + (g i).toInt = (h i).toInt) :
    tritSum n f + tritSum n g = tritSum n h := by
  simp only [tritSum_eq_sum, ← Finset.sum_add_distrib, ← add_mul, hadd]

end Sys2Proof

namespace Sys2Proof.Machine

/-! ## The binary-coded word of an integer (R281) -/

/-- A word that spells bits: none of its trits is -1 (R281). -/
abbrev IsBinaryCoded (w : Word) : Prop :=
  ∀ i < 18, w.trit i ≠ .neg

theorem testBit_low_bits (v : Int) {i : Nat} (hi : i < 18) : (v % 262144).toNat.testBit i ↔ v / 2 ^ i % 2 = 1 := by
  have hcast : ((v % 262144).toNat : Int) = v % 2 ^ 18 := Int.toNat_of_nonneg (Int.emod_nonneg v (by decide))
  rw [Nat.testBit_eq_decide_div_mod_eq, decide_eq_true_iff, ← bit_emod_pow v hi, ← hcast]
  norm_cast

theorem trit_binaryCoded (v : Int) {i : Nat} (hi : i < 18) :
    (binaryCoded v).trit i = if v / 2 ^ i % 2 = 1 then .pos else .zero := by
  simp only [binaryCoded, trit_ofTrits _ hi, testBit_low_bits v hi]

theorem toInt_trit_binaryCoded (v : Int) {i : Nat} (hi : i < 18) : ((binaryCoded v).trit i).toInt = v / 2 ^ i % 2 := by
  rw [trit_binaryCoded v hi]
  obtain hbit | hbit := Int.emod_two_eq (v / 2 ^ i)
  · rw [hbit]; rfl
  · rw [hbit]; rfl

theorem isBinaryCoded_binaryCoded (v : Int) : IsBinaryCoded (binaryCoded v) := by
  intro i hi
  rw [trit_binaryCoded v hi]
  split <;> decide

/-- `to_binary` spells the bits of its argument, but of a negative one only under the default of `BIN_NEGATIVE` (D20). -/
theorem toBinary_eq_binaryCoded {p : Params} {v : Int} (h : 0 ≤ v ∨ p.binNegative = .twosComplement) :
    toBinary p v = binaryCoded v := by
  unfold toBinary
  split
  · next hneg => rw [h.resolve_left (by omega)]
  · rfl

/-- Under every setting of `BIN_NEGATIVE` the bits are those of some integer. -/
theorem exists_toBinary_eq_binaryCoded (p : Params) (v : Int) : ∃ x, toBinary p v = binaryCoded x := by
  unfold toBinary
  split
  · cases p.binNegative with
    | twosComplement => exact ⟨v, rfl⟩
    | anyBits => exact ⟨Config.binNegative v, rfl⟩
  · exact ⟨v, rfl⟩

theorem isBinaryCoded_toBinary (p : Params) (v : Int) : IsBinaryCoded (toBinary p v) := by
  obtain ⟨x, hx⟩ := exists_toBinary_eq_binaryCoded p v
  rw [hx]
  exact isBinaryCoded_binaryCoded x

/-! ## The number a binary-coded word spells (R282) -/

theorem noNegTrit_iff (w : Word) (n : Nat) : noNegTrit w n = true ↔ ∀ i < n, w.trit i ≠ .neg := by
  induction n with
  | zero => exact iff_of_true rfl fun i hi => absurd hi (Nat.not_lt_zero i)
  | succ n ih => rw [noNegTrit, Bool.and_eq_true, ih, decide_eq_true_iff, Nat.forall_lt_succ_right]

theorem bitSum_succ (w : Word) (n : Nat) : bitSum w (n + 1) = bitSum w n + (w.trit n).toInt * 2 ^ n := by
  rw [bitSum, Nat.cast_pow, Nat.cast_ofNat]

theorem bitSum_eq_sum (w : Word) (n : Nat) : bitSum w n = ∑ i ∈ Finset.range n, (w.trit i).toInt * 2 ^ i := by
  induction n with
  | zero => rfl
  | succ n ih => rw [bitSum_succ, Finset.sum_range_succ, ih]

/-- The low `n` trits of a word that spells the bits of an integer sum to its low `n` bits. -/
theorem bitSum_binaryCoded (v : Int) {n : Nat} (hn : n ≤ 18) : bitSum (binaryCoded v) n = v % 2 ^ n := by
  induction n with
  | zero => exact (Int.emod_one v).symm
  | succ n ih => rw [bitSum_succ, ih (by omega), toInt_trit_binaryCoded v (by omega), emod_two_pow_succ]

/-- `n` bits sum to a number below `2^n`. -/
theorem bitSum_bounds {w : Word} {n : Nat} (hw : ∀ i < n, w.trit i ≠ .neg) : 0 ≤ bitSum w n ∧ bitSum w n < 2 ^ n := by
  induction n with
  | zero => exact ⟨le_rfl, zero_lt_one⟩
  | succ n ih =>
    obtain ⟨hlo, hhi⟩ := ih fun i hi => hw i (by omega)
    rw [bitSum_succ, pow_succ]
    obtain hbit | hbit := Trit.toInt_eq_zero_or_one (hw n (by omega))
    · rw [hbit]; omega
    · rw [hbit]; omega

/-- The bits of the sum are the trits: one sum spells one word. -/
theorem bit_bitSum {w : Word} {i n : Nat} (hw : ∀ j < n, w.trit j ≠ .neg) (hi : i < n) :
    bitSum w n / 2 ^ i % 2 = (w.trit i).toInt := by
  induction n with
  | zero => exact absurd hi (Nat.not_lt_zero i)
  | succ n ih =>
    have hlow : ∀ j < n, w.trit j ≠ .neg := fun j hj => hw j (by omega)
    rw [bitSum_succ, mul_comm]
    obtain hlt | rfl := Nat.lt_succ_iff_lt_or_eq.mp hi
    · rw [bit_add_pow_mul _ _ hlt, ih hlow hlt]
    · obtain ⟨hlo, hhi⟩ := bitSum_bounds hlow
      have hbit := Trit.toInt_eq_zero_or_one (hw i hi)
      rw [Int.add_mul_ediv_left _ _ (by positivity), Int.ediv_eq_zero_of_lt hlo hhi]
      omega

/-- The number always fits: 262143 is far below the largest word (R282). -/
theorem toTernary_val {w : Word} (hw : IsBinaryCoded w) : (toTernary w).val = bitSum w 18 := by
  obtain ⟨hlo, hhi⟩ := bitSum_bounds hw
  apply toWord_val_of_inTrits
  rw [InTrits, half_eighteen]
  omega

/-- R282: `to_ternary` undoes `to_binary` on the integers of 18 bits. -/
theorem toTernary_binaryCoded {w : Word} (hlo : 0 ≤ w.val) (hhi : w.val < 262144) : toTernary (binaryCoded w.val) = w := by
  apply Bt.ext
  rw [toTernary_val (isBinaryCoded_binaryCoded w.val), bitSum_binaryCoded w.val le_rfl]
  exact Int.emod_eq_of_lt hlo hhi

/-- R282: `to_binary` undoes `to_ternary` on the binary-coded words. -/
theorem binaryCoded_toTernary {w : Word} (hw : IsBinaryCoded w) : binaryCoded (toTernary w).val = w := by
  apply Bt.ext_trit
  intro i hi
  apply Trit.toInt_inj
  rw [toInt_trit_binaryCoded _ hi, toTernary_val hw, bit_bitSum hw hi]

/-! ## `bin` and `tri` (R283, R284) -/

theorem exec_bin (a b : Reg) (s : State) : exec (.bin a b) s = done (s.set b (toBinary s.params (s.get a).val)) := rfl

theorem exec_bin_of_nonneg {a : Reg} (b : Reg) {s : State} (h : 0 ≤ (s.get a).val) :
    exec (.bin a b) s = done (s.set b (binaryCoded (s.get a).val)) := by
  rw [exec_bin, toBinary_eq_binaryCoded (.inl h)]

theorem exec_tri_of_isBinaryCoded {a : Reg} (b : Reg) {s : State} (h : IsBinaryCoded (s.get a)) :
    exec (.tri a b) s = done (s.set b (toTernary (s.get a))) :=
  if_pos ((noNegTrit_iff (s.get a) 18).mpr h)

/-- Settles O36: the word written spells the bits of some integer, and those of the source where R281 says so. -/
theorem binConverts : Obligations.BinConverts := by
  unfold Obligations.BinConverts
  intro s a b
  obtain ⟨t, hexec, hwrote, hkeeps⟩ := wrote_of_exec_eq_set (exec_bin a b s)
  refine ⟨t, _, hexec, hwrote, isBinaryCoded_toBinary _ _, fun hsource i hi => ?bits, hkeeps⟩
  case bits => rw [toBinary_eq_binaryCoded hsource, toInt_trit_binaryCoded _ hi]

theorem get_set_self {dst : Reg} (hz : dst ≠ .z) (s : State) (v : Word) : (s.set dst v).get dst = v := by
  rw [State.set_get, if_pos ⟨rfl, hz⟩]

/-- The number `bin` has spelt in a register comes back from it with `tri`. -/
theorem tri_after_bin {s : State} {a b c : Reg} (hb : b ≠ .z) (hc : c ≠ .z) (hlo : 0 ≤ (s.get a).val)
    (hhi : (s.get a).val < 262144) :
    ∃ t u, exec (.bin a b) s = .next t ∧ exec (.tri b c) t = .next u ∧ u.get c = s.get a := by
  have hmid := get_set_self hb s (binaryCoded (s.get a).val)
  refine ⟨_, _, exec_bin_of_nonneg b hlo, exec_tri_of_isBinaryCoded c ?coded, ?back⟩
  case coded =>
    rw [hmid]
    exact isBinaryCoded_binaryCoded _
  case back => rw [get_set_self hc, hmid, toTernary_binaryCoded hlo hhi]

/-- The binary-coded word `tri` has read as a number comes back from it with `bin`, whatever `BIN_NEGATIVE` is. -/
theorem bin_after_tri {s : State} {a b c : Reg} (hb : b ≠ .z) (hc : c ≠ .z) (hcoded : IsBinaryCoded (s.get a)) :
    ∃ t u, exec (.tri a b) s = .next t ∧ exec (.bin b c) t = .next u ∧ u.get c = s.get a := by
  have hmid := get_set_self hb s (toTernary (s.get a))
  refine ⟨_, _, exec_tri_of_isBinaryCoded b hcoded, exec_bin_of_nonneg c ?nonneg, ?back⟩
  case nonneg =>
    rw [hmid, toTernary_val hcoded]
    exact (bitSum_bounds hcoded).1
  case back => rw [get_set_self hc, hmid, binaryCoded_toTernary hcoded]

/-- Settles O37: the sum of R282 is the model's `bitSum`, and its bits are the trits it was made from. -/
theorem triConverts : Obligations.TriConverts := by
  unfold Obligations.TriConverts
  refine ⟨fun s a b hcoded => ?converts, fun s a b c hb hc => ⟨tri_after_bin hb hc, bin_after_tri hb hc⟩⟩
  case converts =>
    exact written_of_exec_eq_set (exec_tri_of_isBinaryCoded b hcoded) ((toTernary_val hcoded).trans (bitSum_eq_sum _ 18))

/-! ## Diodes (R285 to R287) -/

theorem tritFdr_eq (x : Trit) : tritFdr x = if x = .pos then .pos else .zero := by
  cases x <;> rfl

theorem tritRdr_eq (x : Trit) : tritRdr x = if x = .neg then .neg else .zero := by
  cases x <;> rfl

theorem toInt_tritFdr_add_toInt_tritRdr (x : Trit) : (tritFdr x).toInt + (tritRdr x).toInt = x.toInt := by
  cases x <;> rfl

/-- R287: each trit passes one of the two diodes, so the two results add up to the source. -/
theorem tritwise1_tritFdr_add_tritRdr (w : Word) : (tritwise1 tritFdr w).val + (tritwise1 tritRdr w).val = w.val := by
  rw [tritwise1, tritwise1, ofTrits_val, ofTrits_val, tritSum_add fun i => toInt_tritFdr_add_toInt_tritRdr (w.trit i),
    tritSum_trit]

/-- Settles O39: each diode acts on each trit by its table. -/
theorem diodesKeepTritsOfOneSign : Obligations.DiodesKeepTritsOfOneSign := by
  unfold Obligations.DiodesKeepTritsOfOneSign
  intro s a b
  obtain ⟨t, hfdr, hfwrote, hfkeeps⟩ := wrote_of_exec_eq_set (i := .fdr a b) (s := s) rfl
  obtain ⟨u, hrdr, hrwrote, hrkeeps⟩ := wrote_of_exec_eq_set (i := .rdr a b) (s := s) rfl
  refine ⟨_, _, tritwise1_tritFdr_add_tritRdr (s.get a), ⟨t, hfdr, hfwrote, fun i hi => ?fdr, hfkeeps⟩,
    ⟨u, hrdr, hrwrote, fun i hi => ?rdr, hrkeeps⟩⟩
  case fdr => rw [trit_tritwise1 _ _ hi, tritFdr_eq]
  case rdr => rw [trit_tritwise1 _ _ hi, tritRdr_eq]

end Sys2Proof.Machine
end

section
/-!
PROOFS for 45_io.md: the event each I/O instruction logs, the answer a read uses up and stores (R291, R294, R295), and the word
a write leaves in the log as it is (R296, R297).
-/

namespace Sys2Proof.Machine

/-! ## The answer of a read (R291) -/

/-- A read uses up the first answer the environment has lined up, if there is one. -/
@[simp] theorem State.ioRead_ioAnswers (s : State) (a : Nonad) (k : IoKind) :
    (s.ioRead a k).ioAnswers = s.ioAnswers.tail := by
  rw [State.ioRead_eq]

theorem State.ioAnswer_of_cons {s : State} {w : Word} {rest : List Word} (h : s.ioAnswers = w :: rest) (a : Nonad)
    (k : IoKind) : s.ioAnswer a k = w := by
  rw [State.ioAnswer, h]

/-! ## `int` and `inb` (R294, R295) -/

/-- One read event with the answer `w` has been logged, `w` has been written to `dst`, and nothing else has changed but the
answers lined up. -/
abbrev ReadInto (s t : State) (dst : Reg) (addr : Nonad) (kind : IoKind) (w : Word) : Prop :=
  t.ioLog = s.ioLog ++ [.read addr kind (s.flag .b) w] ∧ Wrote t dst w ∧
    (∀ x l, s.ioAnswers = x :: l → w = x ∧ t.ioAnswers = l) ∧ (s.ioAnswers = [] → t.ioAnswers = []) ∧
    OnlyRegs s t [dst] ∧ OnlyFlags s t [] ∧ SameSys s t ∧ SameMem s t ∧ t.ip = s.ip ∧ t.pendingInts = s.pendingInts ∧
    t.params = s.params

/-- Every instruction that runs `ioInput` logs its read and stores the answer. -/
theorem readInto_of_exec_eq_ioInput {i : Instr} {s : State} {kind : IoKind} {dst : Reg} {addr : Nonad}
    (hi : exec i s = ioInput kind dst addr s) : ∃ t w, exec i s = .next t ∧ ReadInto s t dst addr kind w := by
  have hframe : WritesOnly [dst] [] [] [.read addr kind (s.flag .b) (s.ioAnswer addr kind)] s
      ((s.ioRead addr kind).set dst (s.ioAnswer addr kind)) := ioInput_writesOnly rfl
  refine ⟨_, _, hi, hframe.ioLog, wrote_set _ dst _, fun x l hcons => ⟨State.ioAnswer_of_cons hcons addr kind, ?rest⟩,
    fun hnil => ?none, hframe.regs, hframe.flags, hframe.sys, fun x => hframe.mem x List.not_mem_nil, hframe.ip,
    hframe.pendingInts, hframe.params⟩
  case rest => rw [State.set_ioAnswers, State.ioRead_ioAnswers, hcons, List.tail_cons]
  case none => rw [State.set_ioAnswers, State.ioRead_ioAnswers, hnil, List.tail_nil]

/-- Settles O40: both run `ioInput`, each with its own kind. -/
theorem ioReads : Obligations.IoReads := by
  unfold Obligations.IoReads
  exact fun s a imm => ⟨readInto_of_exec_eq_ioInput rfl, readInto_of_exec_eq_ioInput rfl⟩

/-! ## `out` and `oub` (R296, R297) -/

/-- One write event with the word `v` has been logged, and nothing else has changed. -/
abbrev WriteLogged (s t : State) (addr : Nonad) (kind : IoKind) (v : Word) : Prop :=
  t.ioLog = s.ioLog ++ [.write addr kind v (s.flag .b)] ∧ OnlyRegs s t [] ∧ OnlyFlags s t [] ∧ SameSys s t ∧ SameMem s t ∧
    t.ip = s.ip ∧ t.ioAnswers = s.ioAnswers ∧ t.pendingInts = s.pendingInts ∧ t.params = s.params

/-- Every instruction that runs `State.ioWrite` logs its write and changes nothing else. -/
theorem writeLogged_of_exec_eq_ioWrite {i : Instr} {s : State} {kind : IoKind} {addr : Nonad} {v : Word}
    (hi : exec i s = done (s.ioWrite addr kind v)) : ∃ t, exec i s = .next t ∧ WriteLogged s t addr kind v := by
  have hframe : WritesOnly [] [] [] [.write addr kind v (s.flag .b)] s (s.ioWrite addr kind v) := ioWrite_writesOnly rfl
  exact ⟨_, hi, hframe.ioLog, hframe.regs, hframe.flags, hframe.sys, fun x => hframe.mem x List.not_mem_nil, hframe.ip,
    s.ioWrite_ioAnswers addr kind v, hframe.pendingInts, hframe.params⟩

/-- Settles O41: both log the register's word as it stands, each with its own kind. -/
theorem ioWrites : Obligations.IoWrites := by
  unfold Obligations.IoWrites
  exact fun s a imm => ⟨writeLogged_of_exec_eq_ioWrite rfl, writeLogged_of_exec_eq_ioWrite rfl⟩

end Sys2Proof.Machine
end

section
/-!
PROOFS for 46_system.md: `CR1` as a word trit by trit (R30, R40), the system call and its return (R300, R301), the deliberate
exceptions (R302, R308, R217), `nop` (R303), and the system registers read and written under the Protect flag (R306, R307).
-/

namespace Sys2Proof

/-- The lettered flags stand among the 18 trits of `CR1` (R30). -/
theorem Flag.sel_toNat_lt (x : Flag) : x.sel.toNat < 18 := by
  cases x <;> decide

end Sys2Proof

namespace Sys2Proof.Machine

/-! ## `CR1` as a word (R30, R31, R40) -/

theorem FlagReg.trit_word (f : FlagReg) {i : Nat} (hi : i < 18) : f.word.trit i = f.tritAt i :=
  trit_ofTrits f.tritAt hi

/-- A lettered flag stands in the word `lsr` reads at its position (R31). -/
theorem FlagReg.trit_word_sel (f : FlagReg) (x : Flag) : f.word.trit x.sel.toNat = f.get x := by
  rw [FlagReg.trit_word f x.sel_toNat_lt, FlagReg.get_eq_tritAt]

theorem FlagReg.tritAt_ofWord (w : Word) {i : Nat} (hi : i < 18) : (FlagReg.ofWord w).tritAt i = w.trit i := by
  rw [← FlagReg.trit_word _ hi, FlagReg.word_ofWord]

/-- A lettered flag takes the trit at its position of the word `ssr` writes (R307). -/
theorem FlagReg.get_ofWord (w : Word) (x : Flag) : (FlagReg.ofWord w).get x = w.trit x.sel.toNat := by
  rw [FlagReg.get_eq_tritAt, FlagReg.tritAt_ofWord w x.sel_toNat_lt]

/-! ## What a write of a system register leaves (R45, R307) -/

section
variable (s : State) (k : SysReg) (v : Word)

@[simp] theorem State.sysWrite_cr3 : (s.sysWrite k v).cr3 = if k = .cr3 then v else s.cr3 := by
  cases k <;> rfl

theorem State.sysWrite_onlyRegs : OnlyRegs s (s.sysWrite k v) [] := by
  obtain ⟨hregs, -⟩ := s.sysWrite_frame k v
  exact fun rg _ => congrArg (·.read rg) hregs

theorem State.sysWrite_sameMem : SameMem s (s.sysWrite k v) := by
  obtain ⟨-, hmem, -⟩ := s.sysWrite_frame k v
  exact fun x => congrArg (·.read x) hmem

theorem State.sysWrite_sameWorld : SameWorld s (s.sysWrite k v) := by
  obtain ⟨-, -, hlog, hanswers, hpending, -, hparams⟩ := s.sysWrite_frame k v
  exact ⟨hlog, hanswers, hpending, hparams⟩

/-- `CR0` receives the start of the word the value addresses (R307, R240). -/
theorem State.sysWrite_cr0_alignOf : AlignOf v.val (s.sysWrite .cr0 v).ip :=
  alignOf_align v.val

/-- Each trit of `CR1`, reserved ones included, receives the trit of the word at its position (R40, R307). -/
theorem State.sysWrite_cr1_tritAt {i : Nat} (hi : i < 18) : (s.sysWrite .cr1 v).cr1.tritAt i = v.trit i :=
  FlagReg.tritAt_ofWord v hi

theorem State.sysWrite_cr1_flag (x : Flag) : (s.sysWrite .cr1 v).flag x = v.trit x.sel.toNat :=
  FlagReg.get_ofWord v x

/-- `CR1` reads back the word written to it, reserved trits included (R40). -/
theorem State.sysRead_cr1_sysWrite_cr1 : (s.sysWrite .cr1 v).sysRead .cr1 = v :=
  FlagReg.word_ofWord v

end

/-! ## `nop` (R303) -/

theorem exec_nop (s : State) : exec .nop s = .next s := rfl

/-- The encoder writes `nop` as the word 0. -/
theorem encode_nop_eq {w : Word} (h : w.val = 0) : encode .nop = w :=
  Bt.ext ((by decide : (encode .nop).val = 0).trans h.symm)

/-- Settles O5: the check of `INVALID_FLAG` sees the same `CR1` before and after `nop`, and leaves the advanced state. -/
theorem nopDoesNothing : Obligations.NopDoesNothing := by
  unfold Obligations.NopDoesNothing
  refine ⟨fun w hw => spells_of_encode_eq (encode_nop_eq hw), exec_nop, fun s hint hbreak hdec hno => ?step⟩
  calc step s = checkFlags .nop s.advance (.next s.advance) := step_eq_checkFlags hint hbreak hdec
    _ = .next s.advance := checkFlags_of_not_meetsFlag (s := s.advance) hno

/-! ## System call and return (R300, R301) -/

/-- The state after a system call (R300). -/
def State.called (s : State) (imm : Hexad) : State :=
  (s.put .r s.ip.val).jump (s.readWord (s.callAddr imm)).val

theorem exec_sys (imm : Hexad) (s : State) : exec (.sys imm) s = .next (s.called imm) := rfl

/-- The return address is IP, which is the same integer as a word (R6). -/
theorem called_get_r (s : State) (imm : Hexad) : ((s.called imm).get .r).val = s.ip.val := by
  rw [State.called, State.jump_get, State.put_get, if_pos (by decide), toWord_addr_val]

theorem called_keeps (s : State) (imm : Hexad) : Keeps s (s.called imm) [.r] [] := by
  have hput : WritesOnly [.r] [] [] [] s (s.put .r s.ip.val) := WritesOnly.refl.set (by simp) _
  exact keeps_jump (hput.keeps rfl) _

/-- Settles O42: `sys` writes `rr` and jumps through the table, and `srt` is a jump to `rr`. -/
theorem systemCallAndReturn : Obligations.SystemCallAndReturn := by
  unfold Obligations.SystemCallAndReturn
  intro s imm
  exact ⟨⟨_, s.callAddr imm, exec_sys imm s, called_get_r s imm, wrapOf_ofInt 12 _, alignOf_align _, called_keeps s imm,
    fun _ => rfl⟩, jumpedTo_of_exec_eq_jump rfl⟩

/-! ## Deliberate exceptions (R302, R308, R217) -/

/-- Every instruction that raises an exception has its entry as its whole effect (R334, R335). -/
theorem raised_of_exec_eq_raise {i : Instr} {s : State} {e : Exc} (hi : exec i s = raise e s) :
    ∃ t, exec i s = .next t ∧ Raised s t e.number :=
  ⟨s.raised e, hi, raised_raised s e⟩

/-- Settles O43: `brk` raises `#BK`, the other three `#OP`, in every state. -/
theorem deliberateExceptions : Obligations.DeliberateExceptions := by
  unfold Obligations.DeliberateExceptions
  exact fun s rest => ⟨raised_of_exec_eq_raise (e := .breakpoint) rfl, raised_of_exec_eq_raise (e := .undefinedOpcode) rfl,
    raised_of_exec_eq_raise (e := .undefinedOpcode) rfl, raised_of_exec_eq_raise (e := .undefinedOpcode) rfl⟩

/-! ## `lsr` (R306) -/

theorem exec_lsr_of_pos {s : State} (h : s.flag .p = .pos) (k : SysReg) (a : Reg) :
    exec (.lsr k a) s = raise .protection s :=
  if_pos h

theorem exec_lsr_of_ne_pos {s : State} (h : s.flag .p ≠ .pos) (k : SysReg) (a : Reg) :
    exec (.lsr k a) s = done (s.set a (s.sysRead k)) :=
  if_neg h

/-- Settles O44: the word read is `sysRead` of the register, and for `CR1` the trits of the flags register in order. -/
theorem systemRegisterReads : Obligations.SystemRegisterReads := by
  unfold Obligations.SystemRegisterReads
  intro s k a
  refine ⟨fun hp => raised_of_exec_eq_raise (exec_lsr_of_pos hp k a), fun hp => ?read⟩
  obtain ⟨t, hexec, hwrote, hkeeps⟩ := wrote_of_exec_eq_set (exec_lsr_of_ne_pos hp k a)
  refine ⟨t, s.sysRead k, hexec, hwrote, hkeeps, ?ip, ?trits, ?flags, congrArg s.sysRead, congrArg s.sysRead,
    congrArg s.sysRead, congrArg s.sysRead, congrArg s.sysRead, congrArg s.sysRead, congrArg s.sysRead⟩
  case ip =>
    rintro rfl
    exact toWord_addr_val s.ip
  case trits =>
    rintro rfl i hi
    exact s.cr1.trit_word hi
  case flags =>
    rintro rfl
    have hflag : ∀ x : Flag, s.cr1.word.trit x.sel.toNat = s.flag x := s.cr1.trit_word_sel
    exact ⟨hflag .c, hflag .s, hflag .d, hflag .a, hflag .b, hflag .t, hflag .i, hflag .p⟩

/-! ## `ssr` (R307) -/

theorem exec_ssr_of_denied {s : State} {k : SysReg} (h : s.flag .p = .pos ∨ (k = .cr0 ∧ s.flag .p = .zero)) (a : Reg) :
    exec (.ssr a k) s = raise .protection s := by
  change execSsr a k s = _
  by_cases hp : s.flag .p = .pos
  · rw [execSsr, if_pos hp]
  · rw [execSsr, if_neg hp, if_pos (h.resolve_left hp)]

theorem exec_ssr_of_allowed {s : State} {k : SysReg} (hp : s.flag .p ≠ .pos) (hk : k = .cr0 → s.flag .p = .neg) (a : Reg) :
    exec (.ssr a k) s = .next (s.sysWrite k (s.get a)) := by
  have hcr0 : ¬ (k = .cr0 ∧ s.flag .p = .zero) := fun ⟨hk0, hzero⟩ => by simp [hk hk0] at hzero
  change execSsr a k s = _
  rw [execSsr, if_neg hp, if_neg hcr0, done]

/-- `lsr` reads from `CR1` what `ssr` has written there, unless the word sets Protect to +1. -/
theorem lsr_after_ssr_cr1 {s : State} {a b : Reg} (hp : s.flag .p ≠ .pos) (hw : (s.get a).trit 9 ≠ .pos) (hb : b ≠ .z) :
    ∃ t u, exec (.ssr a .cr1) s = .next t ∧ exec (.lsr .cr1 b) t = .next u ∧ u.get b = s.get a := by
  have hopen : (s.sysWrite .cr1 (s.get a)).flag .p ≠ .pos := by rwa [s.sysWrite_cr1_flag (s.get a) .p]
  refine ⟨_, _, exec_ssr_of_allowed hp (by simp) a, exec_lsr_of_ne_pos hopen .cr1 b, ?back⟩
  rw [get_set_self hb, State.sysRead_cr1_sysWrite_cr1]

/-- Settles O45: where Protect allows it, the effect is `sysWrite`, which changes the register named and nothing else. -/
theorem systemRegisterWrites : Obligations.SystemRegisterWrites := by
  unfold Obligations.SystemRegisterWrites
  intro s a b k
  refine ⟨fun hdenied => raised_of_exec_eq_raise (exec_ssr_of_denied hdenied a),
    fun hp hk => ⟨_, exec_ssr_of_allowed hp hk a, ?cr0, ?ip, ?trits, ?flags, ?otherFlags, s.sysWrite_cr2 k _,
      s.sysWrite_cr3 k _, s.sysWrite_cr4 k _, s.sysWrite_dr1 k _, s.sysWrite_dr2 k _, s.sysWrite_dr3 k _,
      s.sysWrite_dr4 k _, s.sysWrite_onlyRegs k _, s.sysWrite_sameMem k _, s.sysWrite_sameWorld k _⟩,
    lsr_after_ssr_cr1⟩
  case cr0 =>
    rintro rfl
    exact s.sysWrite_cr0_alignOf _
  case ip => exact fun hne => (s.sysWrite_ip k _).trans (if_neg hne)
  case trits =>
    rintro rfl i hi
    exact s.sysWrite_cr1_tritAt _ hi
  case flags =>
    rintro rfl
    have hflag := s.sysWrite_cr1_flag (s.get a)
    exact ⟨hflag .c, hflag .s, hflag .d, hflag .a, hflag .b, hflag .t, hflag .i, hflag .p⟩
  case otherFlags => exact fun hne j _ => congrArg (·.tritAt j) ((s.sysWrite_cr1 k _).trans (if_neg hne))

end Sys2Proof.Machine
end

section
/-!
PROOFS for 47_assembler_pseudo.md: the operands of a directive and the identifiers substituted for them (R321, R322, R326), the
hexads and words laid at the current location (R321 to R325), the word of an instruction (R91, R107), and a constant used before
its `eq` (R326).
-/

namespace Sys2Proof

/-! ## The word an instruction is written as (R91, R107) -/

/-- The instruction is none of the three whose text does not name the fifteen trits below its major digit (R107, R108). -/
abbrev Instr.NamesAllTrits (i : Instr) : Prop :=
  ∀ r, i ≠ .ldx r ∧ i ≠ .stx r ∧ i ≠ .und r

theorem Instr.written_of_namesAllTrits {i : Instr} (h : i.NamesAllTrits) : i.written = i := by
  obtain heq | ⟨r, hr⟩ := i.written_eq
  · exact heq
  · obtain ⟨hldx, hstx, hund⟩ := h r
    simp [hldx, hstx, hund] at hr

theorem Instr.written_written (i : Instr) : i.written.written = i.written := by
  obtain heq | ⟨r, rfl | rfl | rfl⟩ := i.written_eq
  · rw [heq, heq]
  · rfl
  · rfl
  · rfl

/-- Only `ldx`, `stx` and `und` share their text with other instructions. -/
theorem Instr.eq_of_written_eq {i j : Instr} (hi : i.NamesAllTrits) (h : j.written = i.written) : j = i := by
  rw [Instr.written_of_namesAllTrits hi] at h
  obtain heq | ⟨r, hr⟩ := j.written_eq
  · exact heq.symm.trans h
  · obtain ⟨hldx, hstx, hund⟩ := hi (Bt.ofInt 15 0)
    obtain rfl | rfl | rfl := hr
    · exact absurd h.symm hldx
    · exact absurd h.symm hstx
    · exact absurd h.symm hund

/-- The word the assembler writes for an instruction decodes to it, but for the trits that are not examined. -/
theorem Encoding.decode_of_encode {e : Encoding} {i : Instr} {w : Word} (h : e.encode i = some w) :
    ∃ j, e.decode w = .ok j ∧ j.written = i.written := by
  cases e with
  | specEnc1 =>
    rw [Encoding.encode_specEnc1, Option.some_inj] at h
    exact ⟨i.written, decode_of_encode_eq h, i.written_written⟩
  | table rows => exact Encoding.decode_encode_table h

theorem Encoding.decode_of_encode_of_namesAllTrits {e : Encoding} {i : Instr} {w : Word} (h : e.encode i = some w)
    (hi : i.NamesAllTrits) : e.decode w = .ok i := by
  obtain ⟨j, hdec, hj⟩ := Encoding.decode_of_encode h
  rw [hdec, Instr.eq_of_written_eq hi hj]

/-- SPEC-ENC-1 writes `und` as `%z00000` (R107). -/
theorem encode_written_und (r : Bt 15) :
    Sys2Proof.encode (Instr.und r).written = word6 .z .zero .zero .zero .zero .zero := by
  rw [Instr.written_und]
  decide

end Sys2Proof

namespace Sys2Proof.Machine

/-! ## Operands (R321, R322, R326) -/

theorem Asm.field_of_value {s : Asm} {n : Nat} {x : AsmOperand} {w : Bt n} (h : s.value x = some w.val) :
    s.field n x = some w := by
  rw [Asm.field, h, Option.bind_some, Bt.check_val]

/-- Operands with values in the range of `n` trits are those numbers. -/
theorem Asm.fields_of_values {s : Asm} {n : Nat} {xs : List AsmOperand} {ws : List (Bt n)}
    (h : xs.map s.value = ws.map (fun w => some w.val)) : s.fields n xs = some ws := by
  induction xs generalizing ws with
  | nil =>
    obtain rfl : ws = [] := by simpa using h
    rfl
  | cons x xs ih =>
    obtain _ | ⟨w, ws⟩ := ws
    · simp at h
    · rw [List.map_cons, List.map_cons, List.cons.injEq] at h
      obtain ⟨hx, hxs⟩ := h
      rw [Asm.fields, Asm.field_of_value hx, ih hxs, Option.bind_some, Option.map_some]

theorem byteCheck_natCast {b : Nat} (hb : b < 256) : byteCheck (b : Int) = some ⟨b, hb⟩ :=
  dif_pos ⟨by omega, by omega⟩

theorem countCheck_natCast (k : Nat) : countCheck (k : Int) = some k :=
  if_pos (by omega)

/-! ## Constants (R326) -/

/-- The assembler's state with one more constant, which hides an earlier one of its name. -/
def Asm.withConst (s : Asm) (x : String) (v : Int) : Asm :=
  { s with consts := (x, v) :: s.consts }

@[simp] theorem Asm.withConst_loc (s : Asm) (x : String) (v : Int) : (s.withConst x v).loc = s.loc := rfl

@[simp] theorem Asm.withConst_image (s : Asm) (x : String) (v : Int) : (s.withConst x v).image = s.image := rfl

@[simp] theorem Asm.withConst_lookup (s : Asm) (x y : String) (v : Int) :
    (s.withConst x v).lookup y = if y = x then some v else s.lookup y := by
  by_cases hy : y = x
  · simp [Asm.withConst, Asm.lookup, hy]
  · simp [Asm.withConst, Asm.lookup, hy, Ne.symm hy]

/-- An operand that has the value already keeps it, whatever name the constant has. -/
theorem Asm.withConst_value {s : Asm} {n : AsmOperand} {v : Int} (x : String) (h : s.value n = some v) :
    (s.withConst x v).value n = some v := by
  cases n with
  | lit k => exact h
  | name y =>
    rw [Asm.value, Asm.withConst_lookup]
    split
    · rfl
    · exact h

theorem Asm.emits_value (s : Asm) (hs : List Hexad) (n : AsmOperand) : (s.emits hs).value n = s.value n := by
  cases n with
  | lit k => rfl
  | name x => rw [Asm.value, Asm.value, Asm.lookup, Asm.lookup, Asm.emits_consts]

theorem Asm.directive_eq {s : Asm} {n : AsmOperand} {v : Int} (x : String) (h : s.value n = some v) :
    s.directive (.eq x n) = some (s.withConst x v) := by
  rw [Asm.directive, h, Option.map_some, Asm.withConst]

/-- An `eq` gives its own identifier the value and keeps every other constant. -/
theorem Asm.withConst_values (s : Asm) (x : String) (v : Int) :
    (s.withConst x v).value (.name x) = some v ∧ ∀ y, y ≠ x → (s.withConst x v).value (.name y) = s.value (.name y) := by
  refine ⟨?same, fun y hy => ?other⟩
  case same => rw [Asm.value, Asm.withConst_lookup, if_pos rfl]
  case other => rw [Asm.value, Asm.withConst_lookup, if_neg hy, Asm.value]

/-- A line with an identifier for its immediate is the line of the instruction with the identifier's value. -/
theorem Asm.line_instrOf {s : Asm} {x : String} {v : Int} {i j : Instr} (hx : s.value (.name x) = some v)
    (hj : i.withImm v = some j) : s.line (.instrOf i x) = s.instr j := by
  have hlookup : s.lookup x = some v := hx
  rw [Asm.line, hlookup, Option.bind_some, hj, Option.bind_some]

/-! ## Hexads and words laid at the current location (R321 to R325) -/

theorem laid_emits (s : Asm) (hs : List Hexad) : Laid s (some (s.emits hs)) hs :=
  ⟨_, rfl, Asm.emits_loc hs s, Asm.emits_consts hs s, Asm.emits_encoding hs s, Asm.emits_read hs s, Asm.emits_read_ne hs s⟩

theorem laid_of_eq_some {s : Asm} {r : Option Asm} {hs : List Hexad} (h : r = some (s.emits hs)) : Laid s r hs :=
  h ▸ laid_emits s hs

/-- A word among the hexads laid is read at its place, wrapped as they are (R61, R62). -/
theorem readWord_launch_emits (s : Asm) (m : State) (w : Word) (as bs : List Hexad)
    (hlen : (as ++ hexadsOf w ++ bs).length ≤ 531441) :
    (m.launch (s.emits (as ++ hexadsOf w ++ bs))).readWord (Bt.plus s.loc as.length) = w := by
  have hat : ∀ (p : Nat) (h : Hexad), (hexadsOf w)[p]? = some h →
      (s.emits (as ++ hexadsOf w ++ bs)).image.read (Bt.plus s.loc (as.length + p : Nat)) = h := by
    intro p h hp
    obtain ⟨hlt, -⟩ := List.getElem?_eq_some_iff.1 hp
    refine Asm.emits_read _ s hlen _ h ?_
    rw [List.append_assoc, List.getElem?_append_right (by omega), Nat.add_sub_cancel_left,
      List.getElem?_append_left hlt, hp]
  have hlow := hat 0 _ rfl
  have hmid := hat 1 _ rfl
  have hhigh := hat 2 _ rfl
  rw [Nat.cast_add, ← Bt.plus_plus] at hmid hhigh
  refine Eq.trans ?_ (ofHexads_hexad w)
  exact congr (congr (congrArg ofHexads hlow) hmid) hhigh

/-- One word laid is read at the location it was laid at. -/
theorem readWord_launch_emits_word (s : Asm) (m : State) (w : Word) :
    (m.launch (s.emits (hexadsOf w))).readWord s.loc = w := by
  have hread := readWord_launch_emits s m w [] [] (by simp)
  rwa [List.nil_append, List.append_nil, List.length_nil, Bt.plus, Nat.cast_zero, add_zero, Bt.ofInt_self] at hread

theorem length_flatMap_hexadsOf (ws : List Word) : (ws.flatMap hexadsOf).length = 3 * ws.length := by
  induction ws with
  | nil => rfl
  | cons w ws ih =>
    have hword : (hexadsOf w).length = 3 := rfl
    rw [List.flatMap_cons, List.length_append, hword, ih, List.length_cons]
    omega

/-- Word `j` of those laid stands `3j` above the location. -/
theorem readWord_launch_emits_words (s : Asm) (m : State) {ws : List Word} (hlen : ws.length ≤ 177147) {j : Nat} {w : Word}
    (hj : ws[j]? = some w) : (m.launch (s.emits (ws.flatMap hexadsOf))).readWord (Bt.plus s.loc (3 * j)) = w := by
  obtain ⟨hlt, rfl⟩ := List.getElem?_eq_some_iff.1 hj
  have hsplit : ws.flatMap hexadsOf =
      (ws.take j).flatMap hexadsOf ++ hexadsOf ws[j] ++ (ws.drop (j + 1)).flatMap hexadsOf := by
    conv_lhs => rw [← List.take_append_drop j ws, List.drop_eq_getElem_cons hlt]
    rw [List.flatMap_append, List.flatMap_cons, List.append_assoc]
  have htotal : (ws.flatMap hexadsOf).length ≤ 531441 := by rw [length_flatMap_hexadsOf]; omega
  have hbefore : (((ws.take j).flatMap hexadsOf).length : Int) = 3 * j := by
    rw [length_flatMap_hexadsOf, List.length_take, Nat.min_eq_left hlt.le]
    norm_cast
  rw [hsplit] at htotal ⊢
  rw [← hbefore]
  exact readWord_launch_emits s m ws[j] _ _ htotal

/-! ## What the data directives insert (R322 to R325) -/

theorem Asm.directive_dh {s : Asm} {ns : List AsmOperand} {hs : List Hexad}
    (h : ns.map s.value = hs.map (fun x => some x.val)) : s.directive (.dh ns) = some (s.emits hs) := by
  rw [Asm.directive, Asm.inserted, Asm.fields_of_values h, Option.map_some]

theorem Asm.directive_dw {s : Asm} {ns : List AsmOperand} {ws : List Word}
    (h : ns.map s.value = ws.map (fun x => some x.val)) : s.directive (.dw ns) = some (s.emits (ws.flatMap hexadsOf)) := by
  rw [Asm.directive, Asm.inserted, Asm.fields_of_values h, Option.map_some, Option.map_some]
  rfl

theorem Asm.directive_db {s : Asm} {n : AsmOperand} {b : Nat} (hb : b < 256) (h : s.value n = some (b : Int)) :
    s.directive (.db n) = some (s.emits (hexadsOf (byteWord ⟨b, hb⟩))) := by
  rw [Asm.directive, Asm.inserted, h, Option.bind_some, byteCheck_natCast hb, Option.map_some, Option.map_some]
  rfl

theorem Asm.directive_zh {s : Asm} {n : AsmOperand} {k : Nat} {z : Hexad} (h : s.value n = some (k : Int)) (hz : z.val = 0) :
    s.directive (.zh n) = some (s.emits (List.replicate k z)) := by
  rw [Asm.directive, Asm.inserted, h, Option.bind_some, countCheck_natCast, Option.map_some, Option.map_some,
    Bt.ofInt_eq_of hz.symm]

theorem Asm.directive_zw {s : Asm} {n : AsmOperand} {k : Nat} {z : Hexad} (h : s.value n = some (k : Int)) (hz : z.val = 0) :
    s.directive (.zw n) = some (s.emits (List.replicate (3 * k) z)) := by
  rw [Asm.directive, Asm.inserted, h, Option.bind_some, countCheck_natCast, Option.map_some, Option.map_some,
    Bt.ofInt_eq_of hz.symm]

theorem Asm.directive_ad {s : Asm} {n : AsmOperand} {a : Addr} (h : s.value n = some a.val) :
    s.directive (.ad n) = some { s with loc := a } := by
  rw [Asm.directive, Asm.field_of_value h, Option.map_some]

theorem Asm.instr_of_encode {s : Asm} {i : Instr} {w : Word} (h : s.encoding.encode i = some w) :
    s.instr i = some (s.emits (hexadsOf w)) := by
  rw [Asm.instr, h, Option.map_some]
  rfl

/-- Each trit of the word of a byte is the negative of a bit of the byte (R323). -/
theorem toInt_byteWord_trit (b i : Nat) :
    (if b.testBit i then Trit.neg else Trit.zero).toInt = -((b / 2 ^ i % 2 : Nat) : Int) := by
  rw [Nat.testBit_eq_decide_div_mod_eq]
  obtain hbit | hbit := Nat.mod_two_eq_zero_or_one (b / 2 ^ i)
  · rw [hbit]; rfl
  · rw [hbit]; rfl

/-- A byte has no bit at or above position 8, so eight trits carry it (R323). -/
theorem byteWord_val {b : Nat} (hb : b < 256) :
    (byteWord ⟨b, hb⟩).val = -∑ k ∈ Finset.range 8, (((b / 2 ^ k % 2 : Nat) : Int) * 3 ^ k) := by
  have hupper : ∀ k ∈ Finset.range 18, k ∉ Finset.range 8 → (((b / 2 ^ k % 2 : Nat) : Int) * 3 ^ k) = 0 := by
    intro k _ hk
    have hpow : 2 ^ 8 ≤ 2 ^ k := Nat.pow_le_pow_right (by decide) (by simpa using hk)
    rw [Nat.div_eq_of_lt (by omega), Nat.zero_mod, Nat.cast_zero, zero_mul]
  rw [byteWord, ofTrits_val, tritSum_eq_sum, Finset.sum_subset (by decide) hupper, ← Finset.sum_neg_distrib]
  simp only [toInt_byteWord_trit, neg_mul]

/-- The ASCII codes fit a hexad (R324). -/
theorem map_val_codes (codes : List (Fin 128)) :
    (codes.map (fun c => Bt.ofInt 6 (c.val : Int))).map Bt.val = codes.map (fun c => (c.val : Int)) := by
  rw [List.map_map]
  refine List.map_congr_left fun c _ => bt_of_range ?_ ?_ <;> rw [half_six] <;> omega

/-! ## A constant used before its `eq` (R326) -/

theorem Asm.define_eq_of_undefined {s : Asm} {x : String} {n : AsmOperand} {v : Int} (hx : s.lookup x = none)
    (hn : s.value n = some v) : s.define (.directive (.eq x n)) = s.withConst x v := by
  rw [Asm.define, hx, hn, Asm.withConst]

theorem Asm.define_eq_of_no_value {s : Asm} {x : String} {n : AsmOperand} (hx : s.lookup x = none) (hn : s.value n = none) :
    s.define (.directive (.eq x n)) = s := by
  rw [Asm.define, hx, hn]

theorem Asm.define_eq_of_defined {s : Asm} {x : String} {v : Int} (n : AsmOperand) (hx : s.lookup x = some v) :
    s.define (.directive (.eq x n)) = s := by
  rw [Asm.define, hx]

/-- `dh x` before `eq x, y` before `eq y, n`. -/
abbrev forwardProgram (x y : String) (n : AsmOperand) : List Line :=
  [.directive (.dh [.name x]), .directive (.eq x (.name y)), .directive (.eq y n)]

/-- The first pass finds the value of `y`, the second that of `x`, and the third finds nothing more. -/
theorem Asm.gather_forwardProgram {s : Asm} {x y : String} {n : AsmOperand} {v : Int} (hne : y ≠ x) (hx : s.lookup x = none)
    (hy : s.lookup y = none) (hn : s.value n = some v) :
    s.gather (forwardProgram x y n) = (s.withConst y v).withConst x v := by
  have hx1 : (s.withConst y v).lookup x = none := by rw [Asm.withConst_lookup, if_neg hne.symm, hx]
  have hy1 : (s.withConst y v).lookup y = some v := by rw [Asm.withConst_lookup, if_pos rfl]
  have hx2 : ((s.withConst y v).withConst x v).lookup x = some v := by rw [Asm.withConst_lookup, if_pos rfl]
  have hy2 : ((s.withConst y v).withConst x v).lookup y = some v := by rw [Asm.withConst_lookup, if_neg hne, hy1]
  have hdh : ∀ t : Asm, t.define (.directive (.dh [.name x])) = t := fun _ => rfl
  have hfirst : (forwardProgram x y n).foldl Asm.define s = s.withConst y v := by
    simp only [List.foldl_cons, List.foldl_nil, hdh, Asm.define_eq_of_no_value (n := .name y) hx hy,
      Asm.define_eq_of_undefined hy hn]
  have hsecond : (forwardProgram x y n).foldl Asm.define (s.withConst y v) = (s.withConst y v).withConst x v := by
    simp only [List.foldl_cons, List.foldl_nil, hdh, Asm.define_eq_of_undefined (n := .name y) hx1 hy1,
      Asm.define_eq_of_defined n hy2]
  have hthird : (forwardProgram x y n).foldl Asm.define ((s.withConst y v).withConst x v) =
      (s.withConst y v).withConst x v := by
    simp only [List.foldl_cons, List.foldl_nil, hdh, Asm.define_eq_of_defined _ hx2, Asm.define_eq_of_defined _ hy2]
  calc s.gather (forwardProgram x y n) = s.passes (forwardProgram x y n) 3 := rfl
    _ = (s.withConst y v).withConst x v := by rw [Asm.passes, Asm.passes, Asm.passes, Asm.passes, hfirst, hsecond, hthird]

/-- Once `x`, `y` and `n` have one value, the three lines lay it as a hexad. -/
theorem Asm.lines_forwardProgram {s : Asm} {x y : String} {n : AsmOperand} {h : Hexad} (hx : s.value (.name x) = some h.val)
    (hy : s.value (.name y) = some h.val) (hn : s.value n = some h.val) :
    s.lines (forwardProgram x y n) = some (((s.emits [h]).withConst x h.val).withConst y h.val) := by
  have hdh : s.line (.directive (.dh [.name x])) = some (s.emits [h]) := Asm.directive_dh (by simp [hx])
  have heqx : (s.emits [h]).line (.directive (.eq x (.name y))) = some ((s.emits [h]).withConst x h.val) :=
    Asm.directive_eq x (by rw [Asm.emits_value, hy])
  have heqy : ((s.emits [h]).withConst x h.val).line (.directive (.eq y n)) =
      some (((s.emits [h]).withConst x h.val).withConst y h.val) :=
    Asm.directive_eq y (Asm.withConst_value x (by rw [Asm.emits_value, hn]))
  rw [Asm.lines, hdh, Option.bind_some, Asm.lines, heqx, Option.bind_some, Asm.lines, heqy, Option.bind_some, Asm.lines]

/-- A program may use an identifier before its `eq`, and before the `eq` of what that names. -/
theorem Asm.assemble_forwardProgram {s : Asm} {x y : String} {n : AsmOperand} {h : Hexad} (hne : y ≠ x)
    (hx : s.lookup x = none) (hy : s.lookup y = none) (hn : s.value n = some h.val) :
    ∃ t, s.assemble (forwardProgram x y n) = some t ∧ t.image.read s.loc = h := by
  have hy' : ((s.withConst y h.val).withConst x h.val).value (.name y) = some h.val := by
    rw [Asm.value, Asm.withConst_lookup, if_neg hne, Asm.withConst_lookup, if_pos rfl]
  obtain ⟨hx', -⟩ := (s.withConst y h.val).withConst_values x h.val
  rw [Asm.assemble, Asm.gather_forwardProgram hne hx hy hn,
    Asm.lines_forwardProgram hx' hy' (Asm.withConst_value x (Asm.withConst_value y hn))]
  exact ⟨_, rfl, (Memory.read_write s.image s.loc s.loc h).trans (if_pos rfl)⟩

/-- Settles O51: each line inserts a list of hexads, `Asm.emits` lays any list at the location, and the gathering of constants
comes before the first line. -/
theorem assembledWordsStandWhereTheyAreEmitted : Obligations.AssembledWordsStandWhereTheyAreEmitted := by
  unfold Obligations.AssembledWordsStandWhereTheyAreEmitted
  intro s m n ns
  refine ⟨fun hs h => laid_of_eq_some (Asm.directive_dh h), ?dw, ?db, ?ds, ?zeros, ?instr, ?specEnc1,
    fun a h => Asm.directive_ad h, fun v => rfl, ?eq, ?substituted⟩
  case dw =>
    intro ws hws
    have hdw := Asm.directive_dw hws
    refine ⟨laid_of_eq_some hdw, fun t ht hlen j w hj => ?_⟩
    obtain rfl := Option.some_inj.1 (hdw.symm.trans ht)
    exact readWord_launch_emits_words s m hlen hj
  case db =>
    intro b hb hn
    have hdb := Asm.directive_db hb hn
    refine ⟨byteWord ⟨b, hb⟩, byteWord_val hb, laid_of_eq_some hdb, fun t ht => ?_⟩
    obtain rfl := Option.some_inj.1 (hdb.symm.trans ht)
    exact readWord_launch_emits_word s m _
  case ds => exact fun codes => ⟨_, map_val_codes codes, laid_of_eq_some rfl⟩
  case zeros =>
    exact fun k z hn hz => ⟨laid_of_eq_some (Asm.directive_zh hn hz), laid_of_eq_some (Asm.directive_zw hn hz)⟩
  case instr =>
    intro i w hw
    have hinstr := Asm.instr_of_encode hw
    refine ⟨laid_of_eq_some hinstr, Encoding.decode_of_encode hw, fun t ht => ⟨?_,
      Encoding.decode_of_encode_of_namesAllTrits hw⟩⟩
    obtain rfl := Option.some_inj.1 (hinstr.symm.trans ht)
    exact readWord_launch_emits_word s m w
  case specEnc1 =>
    intro henc
    rw [henc]
    refine ⟨fun i => ⟨_, Encoding.encode_specEnc1 i⟩, fun r => laid_of_eq_some (Asm.instr_of_encode ?_)⟩
    rw [henc, Encoding.encode_specEnc1, encode_written_und]
  case eq =>
    intro x v hn
    exact ⟨s.withConst x v, Asm.directive_eq x hn, rfl, rfl, rfl, s.withConst_values x v⟩
  case substituted =>
    intro x a b h h' j j' k k'
    refine ⟨fun hx => Asm.line_instrOf hx ?adi, fun hx => Asm.line_instrOf hx ?pad, fun hx => Asm.line_instrOf hx ?bra,
      fun y hne hx hy hn => Asm.assemble_forwardProgram hne hx hy hn⟩
    case adi => rw [Instr.withImm, Bt.check_val, Option.map_some]
    case pad => rw [Instr.withImm, Bt.check_val, Option.map_some]
    case bra => rw [Instr.withImm, Bt.check_val, Option.map_some]

end Sys2Proof.Machine
end

section
/-!
PROOFS for 60_exceptions.md: the interrupt and the breakpoint before the fetch (R337, R341), and a next state for every
instruction and every step (R354, R375).
-/

namespace Sys2Proof.Machine

/-! ## What ends a step before the fetch (R27) -/

theorem interruptReady_of_enabled {s : State} {n : Int} {rest : List Int} (hflag : s.flag .i = .pos)
    (hpending : s.pendingInts = n :: rest) : s.interruptReady = true := by
  simp [State.interruptReady, hflag, hpending]

theorem step_of_interruptReady {s : State} (h : s.interruptReady = true) : step s = .next s.takeInterrupt :=
  if_pos h

theorem breakpointHit_of_match {s : State} (hflag : s.flag .t = .pos)
    (hmatch : s.ip.val = s.dr1.val ∨ s.ip.val = s.dr2.val ∨ s.ip.val = s.dr3.val ∨ s.ip.val = s.dr4.val) :
    s.breakpointHit = true := by
  simpa [State.breakpointHit, State.debugMatch, hflag, or_assoc] using hmatch

theorem step_of_breakpointHit {s : State} (hint : s.interruptReady = false) (h : s.breakpointHit = true) :
    step s = .next s.takeBreakpoint := by
  rw [step, if_neg (by simp [hint]), if_pos h, done]

/-- Settles O47: taking the interrupt is the first branch of the step, and entering its handler keeps the rest of the queue. -/
theorem interruptIsTakenFirst : Obligations.InterruptIsTakenFirst := by
  unfold Obligations.InterruptIsTakenFirst
  intro s n rest hflag hpending
  refine ⟨_, step_of_interruptReady (interruptReady_of_enabled hflag hpending), ?entered⟩
  rw [State.takeInterrupt_cons hpending]
  exact ⟨entered_enter { s with pendingInts := rest } n s.ip, rfl⟩

/-- Settles O48: the breakpoint is the second branch of the step, and it enters exception 1 with IP itself. -/
theorem breakpointStopsBeforeTheFetch : Obligations.BreakpointStopsBeforeTheFetch := by
  unfold Obligations.BreakpointStopsBeforeTheFetch
  intro s hint hflag hmatch
  exact ⟨_, step_of_breakpointHit (interruptReady_of_noInterrupt hint) (breakpointHit_of_match hflag hmatch),
    entered_enter s Exc.breakpoint.number s.ip, rfl⟩

/-! ## Every instruction completes (R354) -/

/-- An answer that is a next state. -/
abbrev Completes (r : Result) : Prop :=
  ∃ t, r = .next t

theorem completes_done (s : State) : Completes (done s) :=
  ⟨s, rfl⟩

theorem completes_raise (e : Exc) (s : State) : Completes (raise e s) :=
  completes_done _

theorem completes_ite {c : Prop} [Decidable c] {r q : Result} (hr : Completes r) (hq : Completes q) :
    Completes (if c then r else q) := by
  split
  · exact hr
  · exact hq

theorem completes_divideTo (a : Reg) (d : Int) (dst : Reg) (s : State) : Completes (divideTo a d dst s) :=
  completes_ite (completes_raise _ s) (completes_done _)

theorem completes_shiftCarry (f : Nat → Word × Trit → Word × Trit) (a : Reg) (k : Hexad) (s : State) :
    Completes (shiftCarry f a k s) :=
  completes_ite (completes_done _) (completes_done _)

theorem completes_rotateOnly (f : Word → Nat → Word) (a : Reg) (k : Hexad) (s : State) : Completes (rotateOnly f a k s) :=
  completes_ite (completes_done _) (completes_done _)

theorem completes_execTri (a b : Reg) (s : State) : Completes (execTri a b s) :=
  completes_ite (completes_done _) (completes_done _)

theorem completes_execTbX (a b c : Reg) (f : Flag) (s : State) : Completes (execTbX a b c f s) := by
  unfold execTbX
  split <;> exact completes_done _

theorem completes_execLsr (k : SysReg) (a : Reg) (s : State) : Completes (execLsr k a s) :=
  completes_ite (completes_raise _ s) (completes_done _)

theorem completes_execSsr (a : Reg) (k : SysReg) (s : State) : Completes (execSsr a k s) :=
  completes_ite (completes_raise _ s) (completes_ite (completes_raise _ s) (completes_done _))

/-- No instruction's meaning ends in a fault or a refusal. -/
theorem exec_completes (i : Instr) (s : State) : Completes (exec i s) := by
  cases i with
  | brk | ldx | stx | und => exact completes_raise _ s
  | tbX => exact completes_execTbX _ _ _ _ s
  | lsr => exact completes_execLsr _ _ s
  | ssr => exact completes_execSsr _ _ s
  | div | dvi | pdv => exact completes_divideTo _ _ _ s
  | shl | shr => exact completes_shiftCarry _ _ _ s
  | rcl => exact completes_shiftCarry (fun k x => rclRing x k) _ _ s
  | rcr => exact completes_shiftCarry (fun k x => rcrRing x k) _ _ s
  | rol | ror => exact completes_rotateOnly _ _ _ s
  | tri => exact completes_execTri _ _ s
  | nop | ret | srt | brr | caa | szX | spX | snX | zfX | pfX | nfX | psh | pop | add | adc | sub | sbc | mul | cmp | min
  | max | teq | tem | sti | pti | nti | bin | fdr | rdr | lda | lal | lam | lah | sta | sal | sam | sah | mov | xch | srz
  | srp | srn | adi | sbi | mli | cmi | ldi | lil | lim | lih | ldn | stn | bri | brs | sys | pad | psb | pmu | int | inb
  | out | oub | ldr | ldl | ldm | ldh | str | stl | stm | sth | lad | bra | brl | cal | car | bzX | bpX | bnX =>
    exact completes_done _

/-- The check of `INVALID_FLAG` answers the instruction's next state or the entry of `#IF` (R336). -/
theorem checkFlags_completes (i : Instr) (s : State) {r : Result} (h : Completes r) : Completes (checkFlags i s r) := by
  obtain ⟨t, rfl⟩ := h
  exact completes_ite (completes_raise _ s) (completes_done t)

theorem step_completes (s : State) : Completes (step s) := by
  refine completes_ite (completes_done _) (completes_ite (completes_done _) ?fetched)
  cases s.decoded with
  | ok i => exact checkFlags_completes i s.advance (exec_completes i s.advance)
  | error e => exact completes_raise _ s.advance

/-- Settles O56: each branch of the step answers a next state, the instructions among them. -/
theorem everyStepCompletes : Obligations.EveryStepCompletes := by
  unfold Obligations.EveryStepCompletes
  exact step_completes

end Sys2Proof.Machine
end

section
/-!
PROOFS for 70_reset_and_hazards.md: the state after reset (R370).
-/

namespace Sys2Proof.Machine

/-- Settles O1: IP and `rs` are in range as they stand, `rz` reads 0 in every state, and no interrupt is pending. -/
theorem resetState : Obligations.ResetState := by
  unfold Obligations.ResetState
  refine ⟨?ip, ?stackPointer, congrArg Bt.val State.reset.get_z, rfl⟩
  case ip => exact bt_of_range (by decide) (by decide)
  case stackPointer => exact bt_of_range (by decide) (by decide)

end Sys2Proof.Machine
end

section
/-!
PROOFS for 93_implementation_defined.md: what is left where the spec gives no result, a multiply into `ro` (U5), a count below
zero (U6) and `tri` of a word with a trit of -1 (U10).
-/

namespace Sys2Proof.Machine

/-- Every instruction that runs `multiplyTo` into `ro` leaves one of the two words of its product there (U5). -/
theorem product_of_exec_eq_multiplyTo_o {i : Instr} {s : State} {p : Int} (hi : exec i s = multiplyTo .o p s)
    (hp : InTrits 36 p) :
    ∃ (t : State) (lo hi : Word), exec i s = .next t ∧ p = hi.val * 3 ^ 18 + lo.val ∧ (t.get .o = lo ∨ t.get .o = hi) ∧
      (t.flag .s).toInt = p.sign ∧ KeepsAll s t [.o] [.c, .s] := by
  have hsurvives : writeProduct .o p s = s.set .o (if Config.mulHighSurvives s.draws then productHigh p else productLow p) :=
    if_pos rfl
  refine ⟨_, productLow p, productHigh p, hi, eq_high_mul_add_low (a := 18) (b := 18) hp, ?survivor, by simp, ?frame⟩
  case survivor =>
    cases hhigh : Config.mulHighSurvives s.draws with
    | false => exact .inl (by simp [hsurvives, hhigh])
    | true => exact .inr (by simp [hsurvives, hhigh])
  case frame =>
    rw [hsurvives]
    exact ((WritesOnly.refl.set (by simp) _).setCarrySign _ _).drew.keepsAll rfl

/-- Every shift or rotate through Carry by a count below zero writes the register and Carry alone (U6). -/
theorem keepsAll_of_exec_eq_shiftCarry_of_neg {i : Instr} {s : State} {f : Nat → Word × Trit → Word × Trit} {a : Reg}
    {imm : Hexad} (hi : exec i s = shiftCarry f a imm s) (hneg : imm.val < 0) :
    ∃ t, exec i s = .next t ∧ (t.get .z).val = 0 ∧ KeepsAll s t [a] [.c] :=
  ⟨_, hi.trans (if_pos hneg), congrArg Bt.val (State.get_z _),
    ((WritesOnly.refl.set (by simp) _).setFlag (by simp) _).drew.keepsAll rfl⟩

/-- Every rotate by a count below zero writes the register alone (U6). -/
theorem keepsAll_of_exec_eq_rotateOnly_of_neg {i : Instr} {s : State} {f : Word → Nat → Word} {a : Reg} {imm : Hexad}
    (hi : exec i s = rotateOnly f a imm s) (hneg : imm.val < 0) :
    ∃ t, exec i s = .next t ∧ (t.get .z).val = 0 ∧ KeepsAll s t [a] [] :=
  ⟨_, hi.trans (if_pos hneg), congrArg Bt.val (State.get_z _), (WritesOnly.refl.set (by simp) _).drew.keepsAll rfl⟩

/-- `tri` of a word that is not binary-coded writes its destination alone (U10). -/
theorem exec_tri_of_not_isBinaryCoded {a : Reg} (b : Reg) {s : State} (h : ¬ IsBinaryCoded (s.get a)) :
    exec (.tri a b) s = .next (s.put b (Config.triUnspecified s.draws)).drew :=
  if_neg (mt (noNegTrit_iff (s.get a) 18).mp h)

/-- Settles O16: each case is one free value written to the register the instruction names, or one of the two product words. -/
theorem unspecifiedResultsStillComplete : Obligations.UnspecifiedResultsStillComplete := by
  unfold Obligations.UnspecifiedResultsStillComplete
  intro s a b imm imm9
  have ha := (s.get a).inTrits
  refine ⟨?products, ?throughCarry, ?rotates, ?tri⟩
  case products =>
    rintro i p (⟨rfl, rfl⟩ | ⟨rfl, rfl⟩ | ⟨rfl, rfl⟩)
    · exact product_of_exec_eq_multiplyTo_o rfl (ha.mul (s.get b).inTrits)
    · exact product_of_exec_eq_multiplyTo_o rfl ((ha.mul imm.inTrits).mono (by decide))
    · exact product_of_exec_eq_multiplyTo_o rfl (((s.get .o).inTrits.mul imm9.inTrits).mono (by decide))
  case throughCarry =>
    rintro i hneg (rfl | rfl | rfl | rfl)
    · exact keepsAll_of_exec_eq_shiftCarry_of_neg (f := fun k x => repeatStep shlStep k x) rfl hneg
    · exact keepsAll_of_exec_eq_shiftCarry_of_neg (f := fun k x => repeatStep shrStep k x) rfl hneg
    · exact keepsAll_of_exec_eq_shiftCarry_of_neg (f := fun k x => rclRing x k) rfl hneg
    · exact keepsAll_of_exec_eq_shiftCarry_of_neg (f := fun k x => rcrRing x k) rfl hneg
  case rotates =>
    rintro i hneg (rfl | rfl)
    · exact keepsAll_of_exec_eq_rotateOnly_of_neg (f := rolWord) rfl hneg
    · exact keepsAll_of_exec_eq_rotateOnly_of_neg (f := rorWord) rfl hneg
  case tri =>
    rintro ⟨k, hk, htrit⟩
    exact ⟨_, exec_tri_of_not_isBinaryCoded b (fun hcoded => hcoded k hk htrit), congrArg Bt.val (State.get_z _),
      (WritesOnly.refl.set (by simp) _).drew.keepsAll rfl⟩

end Sys2Proof.Machine
end
